-- ==== Sys2Proof/Word.lean ====
section
/-! DEFINITION. The byte and word types of the smol CORE and its width-polymorphic value (spec/00_scope.md R8). -/
namespace Sys2Proof

/-- An 8-bit value: a general register r0..r7, a byte of memory, a byte of the instruction stream. -/
abbrev Byte := BitVec 8

/-- A 16-bit value: a 16-bit register, a memory address, an instruction-stream offset. -/
abbrev Word := BitVec 16

/-- R8: "a tagged union holding either an 8-bit or a 16-bit unsigned integer". -/
inductive Value where
  | v8 (b : Byte)
  | v16 (h : Word)
deriving DecidableEq, Repr, Inhabited

end Sys2Proof
end

