-- ==== Sys2Proof/Machine/Bits.lean ====
section
/-! DEFINITION. Byte order and nibbles: how 16-bit values are split into bytes and two selectors share one byte
(spec/00_scope.md R7, R9, R10). -/
namespace Sys2Proof.Machine

/-- R9: `le16(b0, b1) = b0 + 256 * b1`. -/
def le16 (b0 b1 : Byte) : Word := BitVec.ofNat 16 (b0.toNat + 256 * b1.toNat)

/-- `h[7:0]` (R7). -/
def loByte (h : Word) : Byte := h.extractLsb' 0 8

/-- `h[15:8]` (R7). -/
def hiByte (h : Word) : Byte := h.extractLsb' 8 8

/-- `b[3:0]`, the first operand's selector (R7, R10). -/
def lowNibble (b : Byte) : BitVec 4 := b.extractLsb' 0 4

/-- `b[7:4]`, the second operand's selector (R7, R10). -/
def highNibble (b : Byte) : BitVec 4 := b.extractLsb' 4 4

/-- The byte whose low nibble is `a` and whose high nibble is `b` (R10, R51). -/
def packNibbles (a b : BitVec 4) : Byte := BitVec.ofNat 8 (a.toNat + 16 * b.toNat)

end Sys2Proof.Machine
end

