-- ==== Sys2Proof/Syntax.lean ====
section
/-! DEFINITION. The registers (spec/10_state.md R13, R14) and the instructions of the smol CORE, one constructor per row
of spec/opcode_table.json in the table's order (spec/30_encoding.md R60). A register operand is any of the sixteen
registers, as a 4-bit selector field can name any of them: which of them an instruction admits is WellFormed's matter. -/
namespace Sys2Proof

/-- The eight 8-bit general registers, selectors 0 to 7 (R14, R16). -/
inductive Reg8 where
  | r0 | r1 | r2 | r3 | r4 | r5 | r6 | r7
deriving DecidableEq, Repr, Inhabited

/-- The eight 16-bit registers, selectors 8 to 15 in this order (R14). -/
inductive Reg16 where
  | vp | w0 | w1 | ic | fl | cr | sp | zr
deriving DecidableEq, Repr, Inhabited

/-- A register, by its class (R15): every 4-bit selector names one of the sixteen. -/
inductive Reg where
  | r8 (g : Reg8)
  | r16 (h : Reg16)
deriving DecidableEq, Repr, Inhabited

/-- The instructions. Operands stand in the assembly order of R67: in `ld a addr` the register first, in `stmr addr a`
and `stm addr imm` the address first. `a` is the first operand (low nibble), `b` the second (high nibble) (R10). -/
inductive Instr where
  -- family 00, ALU and equality
  | addr8 (a b : Reg)
  | addi8 (a : Reg) (imm : Byte)
  | addr16 (a b : Reg)
  | addi16 (a : Reg) (imm : Word)
  | subr8 (a b : Reg)
  | subi8 (a : Reg) (imm : Byte)
  | subr16 (a b : Reg)
  | subi16 (a : Reg) (imm : Word)
  | andr8 (a b : Reg)
  | andi8 (a : Reg) (imm : Byte)
  | andr16 (a b : Reg)
  | andi16 (a : Reg) (imm : Word)
  | orr8 (a b : Reg)
  | ori8 (a : Reg) (imm : Byte)
  | orr16 (a b : Reg)
  | ori16 (a : Reg) (imm : Word)
  | xorr8 (a b : Reg)
  | xori8 (a : Reg) (imm : Byte)
  | xorr16 (a b : Reg)
  | xori16 (a : Reg) (imm : Word)
  | not8 (a : Reg)
  | not16 (a : Reg)
  | eqr8 (a b : Reg)
  | eqi8 (a : Reg) (imm : Byte)
  | eqr16 (a b : Reg)
  | eqi16 (a : Reg) (imm : Word)
  | inc8 (a : Reg)
  | inc16 (a : Reg)
  | dec8 (a : Reg)
  | dec16 (a : Reg)
  -- family 01, load and store
  | str8 (a b : Reg)
  | stmr8 (addr : Word) (a : Reg)
  | sti8 (a : Reg) (imm : Byte)
  | stm8 (addr : Word) (imm : Byte)
  | str16 (a b : Reg)
  | stmr16 (addr : Word) (a : Reg)
  | sti16 (a : Reg) (imm : Word)
  | ld8 (a : Reg) (addr : Word)
  | ld16 (a : Reg) (addr : Word)
  | swp8 (a b : Reg)
  | swp16 (a b : Reg)
  -- family 10, stack and variable pointer
  | push8 (a : Reg)
  | pushi8 (imm : Byte)
  | push16 (a : Reg)
  | pushi16 (imm : Word)
  | pop8 (a : Reg)
  | pop16 (a : Reg)
  | ldv8 (a : Reg)
  | ldvi8 (imm : Byte)
  | ldv16 (a : Reg)
  | ldvi16 (imm : Word)
  | ulv
  -- family 11, branch and call
  | jmp (t : Word)
  | be (t : Word)
  | bne (t : Word)
  | bg (t : Word)
  | bl (t : Word)
  | call (t : Word)
  | syscall
  | ret
  | reti
deriving DecidableEq, Repr, Inhabited

end Sys2Proof
end

