-- ==== Sys2Proof/WellFormed.lean ====
section
/-! DEFINITION. Which instructions pass the operand-field checks (spec/40_loop.md R75): every register operand has the class
of the instruction's width (spec/30_encoding.md R54), and no register destination is `ic` (R55). -/
namespace Sys2Proof

/-- The register has class 8 (R15). -/
def Reg.is8 : Reg → Bool
  | .r8 _ => true
  | .r16 _ => false

/-- The register has class 16 (R15). -/
def Reg.is16 : Reg → Bool
  | .r8 _ => false
  | .r16 _ => true

/-- The register may be the destination of a width-16 instruction: class 16 and not `ic` (R54, R55).
A width-8 destination needs class 8 only, since `ic` has class 16. -/
def Reg.isDest16 : Reg → Bool
  | .r8 _ => false
  | .r16 h => h != .ic

/-- R54 and R55 for each instruction: the operands the spec lets it run on. -/
def Instr.wellFormed : Instr → Bool
  | .addr8 a b => a.is8 && b.is8
  | .addi8 a _ => a.is8
  | .addr16 a b => a.isDest16 && b.is16
  | .addi16 a _ => a.isDest16
  | .subr8 a b => a.is8 && b.is8
  | .subi8 a _ => a.is8
  | .subr16 a b => a.isDest16 && b.is16
  | .subi16 a _ => a.isDest16
  | .andr8 a b => a.is8 && b.is8
  | .andi8 a _ => a.is8
  | .andr16 a b => a.isDest16 && b.is16
  | .andi16 a _ => a.isDest16
  | .orr8 a b => a.is8 && b.is8
  | .ori8 a _ => a.is8
  | .orr16 a b => a.isDest16 && b.is16
  | .ori16 a _ => a.isDest16
  | .xorr8 a b => a.is8 && b.is8
  | .xori8 a _ => a.is8
  | .xorr16 a b => a.isDest16 && b.is16
  | .xori16 a _ => a.isDest16
  | .not8 a => a.is8
  | .not16 a => a.isDest16
  | .eqr8 a b => a.is8 && b.is8
  | .eqi8 a _ => a.is8
  | .eqr16 a b => a.is16 && b.is16
  | .eqi16 a _ => a.is16
  | .inc8 a => a.is8
  | .inc16 a => a.isDest16
  | .dec8 a => a.is8
  | .dec16 a => a.isDest16
  | .str8 a b => a.is8 && b.is8
  | .stmr8 _ a => a.is8
  | .sti8 a _ => a.is8
  | .stm8 _ _ => true
  | .str16 a b => a.isDest16 && b.is16
  | .stmr16 _ a => a.is16
  | .sti16 a _ => a.isDest16
  | .ld8 a _ => a.is8
  | .ld16 a _ => a.isDest16
  | .swp8 a b => a.is8 && b.is8
  | .swp16 a b => a.isDest16 && b.isDest16
  | .push8 a => a.is8
  | .pushi8 _ => true
  | .push16 a => a.is16
  | .pushi16 _ => true
  | .pop8 a => a.is8
  | .pop16 a => a.isDest16
  | .ldv8 a => a.is8
  | .ldvi8 _ => true
  | .ldv16 a => a.is16
  | .ldvi16 _ => true
  | .ulv => true
  | .jmp _ => true
  | .be _ => true
  | .bne _ => true
  | .bg _ => true
  | .bl _ => true
  | .call _ => true
  | .syscall => true
  | .ret => true
  | .reti => true

end Sys2Proof
end

