-- ==== Sys2Proof/Decode.lean ====
section
/-! DEFINITION. The decoder, total on any bytes, and the encoder (spec/30_encoding.md). The decoder reads the opcode byte field
by field as R49 and R56 to R59 lay it out; the encoder writes the opcode bytes of the map R60. That the two agree is
the round trip R70. The operand-field checks of R54 and R55 come after decoding, in the meanings (Machine/Operands.lean):
decoding ends with the last check that looks at the bytes alone, the reserved nibble of R53. -/
namespace Sys2Proof

open Sys2Proof.Machine

/-! ### Selectors (spec/10_state.md R14) -/

/-- The selector codes 0 to 7. -/
def Reg8.selector : Reg8 → BitVec 4
  | .r0 => 0 | .r1 => 1 | .r2 => 2 | .r3 => 3 | .r4 => 4 | .r5 => 5 | .r6 => 6 | .r7 => 7

/-- The selector codes 8 to 15. -/
def Reg16.selector : Reg16 → BitVec 4
  | .vp => 8 | .w0 => 9 | .w1 => 10 | .ic => 11 | .fl => 12 | .cr => 13 | .sp => 14 | .zr => 15

/-- The selector code of a register. -/
def Reg.selector : Reg → BitVec 4
  | .r8 g => g.selector
  | .r16 h => h.selector

/-- The register that a selector code names; every code names one (R15). -/
def Reg.ofSelector (n : BitVec 4) : Reg :=
  match n.toNat with
  | 0 => .r8 .r0
  | 1 => .r8 .r1
  | 2 => .r8 .r2
  | 3 => .r8 .r3
  | 4 => .r8 .r4
  | 5 => .r8 .r5
  | 6 => .r8 .r6
  | 7 => .r8 .r7
  | 8 => .r16 .vp
  | 9 => .r16 .w0
  | 10 => .r16 .w1
  | 11 => .r16 .ic
  | 12 => .r16 .fl
  | 13 => .r16 .cr
  | 14 => .r16 .sp
  | _ => .r16 .zr

/-! ### Operand formats (R51) -/

/-- The ten formats of R51, each with the instruction it builds from its operands in stream order. -/
inductive Form where
  | op (i : Instr)
  | rr (k : Reg → Reg → Instr)
  | r (k : Reg → Instr)
  | ri8 (k : Reg → Byte → Instr)
  | ri16 (k : Reg → Word → Instr)
  | i8 (k : Byte → Instr)
  | i16 (k : Word → Instr)
  | a (k : Word → Instr)
  | ar (k : Word → Reg → Instr)
  | ai8 (k : Word → Byte → Instr)

/-- The length column of R51, the opcode byte included. -/
def Form.length : Form → Nat
  | .op _ => 1
  | .rr _ => 2
  | .r _ => 2
  | .ri8 _ => 3
  | .ri16 _ => 4
  | .i8 _ => 2
  | .i16 _ => 3
  | .a _ => 3
  | .ar _ => 4
  | .ai8 _ => 4

/-- Why bytes do not decode. `noByte`: there is no opcode byte at all. -/
inductive DecodeFault where
  | noByte
  | reservedOpcode (op : Byte)
  | truncated (len : Nat)
  | reservedNibble (op bad : Byte)
deriving DecidableEq, Repr

/-! ### The opcode byte (R49, R56 to R59) -/

/-- A binary ALU operation (R56): RR when S = 0, an immediate of the instruction's width when S = 1. -/
def binaryForm (W S : Bool) (rr8 : Reg → Reg → Instr) (ri8 : Reg → Byte → Instr) (rr16 : Reg → Reg → Instr)
    (ri16 : Reg → Word → Instr) : Option Form :=
  match W, S with
  | false, false => some (.rr rr8)
  | false, true => some (.ri8 ri8)
  | true, false => some (.rr rr16)
  | true, true => some (.ri16 ri16)

/-- A unary ALU operation (R56): format R, S = 1 reserved. -/
def unaryForm (W S : Bool) (r8 r16 : Reg → Instr) : Option Form :=
  match W, S with
  | false, false => some (.r r8)
  | true, false => some (.r r16)
  | _, true => none

/-- Family 00, `0 0 o o o o W S` (R56). -/
def aluForm (op : Byte) : Option Form :=
  let W := op.getLsbD 1
  let S := op.getLsbD 0
  match (op.extractLsb' 2 4).toNat with
  | 0 => binaryForm W S .addr8 .addi8 .addr16 .addi16
  | 1 => binaryForm W S .subr8 .subi8 .subr16 .subi16
  | 2 => binaryForm W S .andr8 .andi8 .andr16 .andi16
  | 3 => binaryForm W S .orr8 .ori8 .orr16 .ori16
  | 4 => binaryForm W S .xorr8 .xori8 .xorr16 .xori16
  | 5 => unaryForm W S .not8 .not16
  | 6 => binaryForm W S .eqr8 .eqi8 .eqr16 .eqi16
  | 7 => unaryForm W S .inc8 .inc16
  | 8 => unaryForm W S .dec8 .dec16
  | _ => none

/-- Family 01, `0 1 D D W S T 0` (R57); the arguments of the match are D, W, S, T and bit 0. -/
def loadStoreForm (op : Byte) : Option Form :=
  match (op.extractLsb' 4 2).toNat, op.getLsbD 3, op.getLsbD 2, op.getLsbD 1, op.getLsbD 0 with
  | 0, false, false, false, false => some (.rr .str8)
  | 0, true, false, false, false => some (.rr .str16)
  | 0, false, true, false, false => some (.ri8 .sti8)
  | 0, true, true, false, false => some (.ri16 .sti16)
  | 0, false, false, true, false => some (.ar .stmr8)
  | 0, true, false, true, false => some (.ar .stmr16)
  | 0, false, true, true, false => some (.ai8 .stm8)
  | 1, false, false, false, false => some (.ar fun addr a => .ld8 a addr)
  | 1, true, false, false, false => some (.ar fun addr a => .ld16 a addr)
  | 2, false, false, false, false => some (.rr .swp8)
  | 2, true, false, false, false => some (.rr .swp16)
  | _, _, _, _, _ => none

/-- Family 10, `1 0 P P W S 0 0` (R58); the arguments of the match are P, W, S and bits 1:0. -/
def stackVarForm (op : Byte) : Option Form :=
  match (op.extractLsb' 4 2).toNat, op.getLsbD 3, op.getLsbD 2, (op.extractLsb' 0 2).toNat with
  | 0, false, false, 0 => some (.r .push8)
  | 0, true, false, 0 => some (.r .push16)
  | 0, false, true, 0 => some (.i8 .pushi8)
  | 0, true, true, 0 => some (.i16 .pushi16)
  | 1, false, false, 0 => some (.r .pop8)
  | 1, true, false, 0 => some (.r .pop16)
  | 2, false, false, 0 => some (.r .ldv8)
  | 2, true, false, 0 => some (.r .ldv16)
  | 2, false, true, 0 => some (.i8 .ldvi8)
  | 2, true, true, 0 => some (.i16 .ldvi16)
  | 3, false, false, 0 => some (.op .ulv)
  | _, _, _, _ => none

/-- Family 11, `1 1 o o o s s s` (R59); the arguments of the match are the op field and the sub-selector. -/
def branchForm (op : Byte) : Option Form :=
  match (op.extractLsb' 3 3).toNat, (op.extractLsb' 0 3).toNat with
  | 0, 0 => some (.a .jmp)
  | 1, 0 => some (.a .be)
  | 2, 0 => some (.a .bne)
  | 3, 0 => some (.a .bg)
  | 4, 0 => some (.a .bl)
  | 5, 0 => some (.a .call)
  | 5, 7 => some (.op .syscall)
  | 6, 0 => some (.op .ret)
  | 7, 0 => some (.op .reti)
  | _, _ => none

/-- R49: the family is bits [7:6] of the opcode byte. `none` is a reserved opcode byte (R61). -/
def opcodeForm (op : Byte) : Option Form :=
  match (op.extractLsb' 6 2).toNat with
  | 0 => aluForm op
  | 1 => loadStoreForm op
  | 2 => stackVarForm op
  | _ => branchForm op

/-! ### Operand bytes (R51 to R53) -/

/-- A single-register byte: the register is the low nibble, the high nibble must be 0 (R53). -/
def singleReg (op b : Byte) (k : Reg → Instr) (rest : List Byte) : Except DecodeFault (Instr × List Byte) :=
  if highNibble b = 0 then .ok (k (Reg.ofSelector (lowNibble b)), rest) else .error (.reservedNibble op b)

/-- The operand bytes of a format, and the bytes that follow the instruction. The instruction's whole length is
required before any operand byte is looked at (spec/40_loop.md R74). -/
def Form.parse (op : Byte) : Form → List Byte → Except DecodeFault (Instr × List Byte)
  | .op i, rest => .ok (i, rest)
  | .rr k, b :: rest => .ok (k (Reg.ofSelector (lowNibble b)) (Reg.ofSelector (highNibble b)), rest)
  | .r k, b :: rest => singleReg op b k rest
  | .ri8 k, b :: x :: rest => singleReg op b (fun a => k a x) rest
  | .ri16 k, b :: x :: y :: rest => singleReg op b (fun a => k a (le16 x y)) rest
  | .i8 k, x :: rest => .ok (k x, rest)
  | .i16 k, x :: y :: rest => .ok (k (le16 x y), rest)
  | .a k, x :: y :: rest => .ok (k (le16 x y), rest)
  | .ar k, x :: y :: b :: rest => singleReg op b (k (le16 x y)) rest
  | .ai8 k, x :: y :: z :: rest => .ok (k (le16 x y) z, rest)
  | f, _ => .error (.truncated f.length)

/-- The decoder: the instruction at the front of the bytes and the bytes after it, or why there is none. The opcode
byte is judged first, then the length, then the reserved nibble (spec/60_exceptions.md R134). -/
def decode : List Byte → Except DecodeFault (Instr × List Byte)
  | [] => .error .noByte
  | op :: rest =>
    match opcodeForm op with
    | some f => f.parse op rest
    | none => .error (.reservedOpcode op)

/-! ### The opcode table's words -/

/-- The four bytes, first byte least significant, of a table word of `nbits` bits. -/
def tableBytes (nbits w : Nat) : List Byte :=
  [BitVec.ofNat 8 (w % 2 ^ nbits), BitVec.ofNat 8 (w % 2 ^ nbits / 256),
   BitVec.ofNat 8 (w % 2 ^ nbits / 65536), BitVec.ofNat 8 (w % 2 ^ nbits / 16777216)]

/-- The instruction that the decoder reads from a table word whose bits above `nbits` are 0. -/
def decodeTableWord (nbits w : Nat) : Option Instr :=
  match decode (tableBytes nbits w) with
  | .ok (i, _) => some i
  | .error _ => none

/-! ### The encoder (R51, R52, R60) -/

/-- Format RR: `bbbb aaaa`. -/
def encRR (op : Byte) (a b : Reg) : List Byte := [op, packNibbles a.selector b.selector]

/-- Format R: `0000 aaaa`. -/
def encR (op : Byte) (a : Reg) : List Byte := [op, packNibbles a.selector 0]

/-- Format RI8. -/
def encRI8 (op : Byte) (a : Reg) (imm : Byte) : List Byte := [op, packNibbles a.selector 0, imm]

/-- Format RI16. -/
def encRI16 (op : Byte) (a : Reg) (imm : Word) : List Byte :=
  [op, packNibbles a.selector 0, loByte imm, hiByte imm]

/-- Formats I16 and A: the opcode byte and a little-endian 16-bit value. -/
def encW (op : Byte) (t : Word) : List Byte := [op, loByte t, hiByte t]

/-- Format AR. -/
def encAR (op : Byte) (addr : Word) (a : Reg) : List Byte :=
  [op, loByte addr, hiByte addr, packNibbles a.selector 0]

/-- Format AI8. -/
def encAI8 (op : Byte) (addr : Word) (imm : Byte) : List Byte := [op, loByte addr, hiByte addr, imm]

/-- The bytes of an instruction, from the opcode map of R60. -/
def encode : Instr → List Byte
  | .addr8 a b => encRR 0x00 a b
  | .addi8 a imm => encRI8 0x01 a imm
  | .addr16 a b => encRR 0x02 a b
  | .addi16 a imm => encRI16 0x03 a imm
  | .subr8 a b => encRR 0x04 a b
  | .subi8 a imm => encRI8 0x05 a imm
  | .subr16 a b => encRR 0x06 a b
  | .subi16 a imm => encRI16 0x07 a imm
  | .andr8 a b => encRR 0x08 a b
  | .andi8 a imm => encRI8 0x09 a imm
  | .andr16 a b => encRR 0x0A a b
  | .andi16 a imm => encRI16 0x0B a imm
  | .orr8 a b => encRR 0x0C a b
  | .ori8 a imm => encRI8 0x0D a imm
  | .orr16 a b => encRR 0x0E a b
  | .ori16 a imm => encRI16 0x0F a imm
  | .xorr8 a b => encRR 0x10 a b
  | .xori8 a imm => encRI8 0x11 a imm
  | .xorr16 a b => encRR 0x12 a b
  | .xori16 a imm => encRI16 0x13 a imm
  | .not8 a => encR 0x14 a
  | .not16 a => encR 0x16 a
  | .eqr8 a b => encRR 0x18 a b
  | .eqi8 a imm => encRI8 0x19 a imm
  | .eqr16 a b => encRR 0x1A a b
  | .eqi16 a imm => encRI16 0x1B a imm
  | .inc8 a => encR 0x1C a
  | .inc16 a => encR 0x1E a
  | .dec8 a => encR 0x20 a
  | .dec16 a => encR 0x22 a
  | .str8 a b => encRR 0x40 a b
  | .stmr8 addr a => encAR 0x42 addr a
  | .sti8 a imm => encRI8 0x44 a imm
  | .stm8 addr imm => encAI8 0x46 addr imm
  | .str16 a b => encRR 0x48 a b
  | .stmr16 addr a => encAR 0x4A addr a
  | .sti16 a imm => encRI16 0x4C a imm
  | .ld8 a addr => encAR 0x50 addr a
  | .ld16 a addr => encAR 0x58 addr a
  | .swp8 a b => encRR 0x60 a b
  | .swp16 a b => encRR 0x68 a b
  | .push8 a => encR 0x80 a
  | .pushi8 imm => [0x84, imm]
  | .push16 a => encR 0x88 a
  | .pushi16 imm => encW 0x8C imm
  | .pop8 a => encR 0x90 a
  | .pop16 a => encR 0x98 a
  | .ldv8 a => encR 0xA0 a
  | .ldvi8 imm => [0xA4, imm]
  | .ldv16 a => encR 0xA8 a
  | .ldvi16 imm => encW 0xAC imm
  | .ulv => [0xB0]
  | .jmp t => encW 0xC0 t
  | .be t => encW 0xC8 t
  | .bne t => encW 0xD0 t
  | .bg t => encW 0xD8 t
  | .bl t => encW 0xE0 t
  | .call t => encW 0xE8 t
  | .syscall => [0xEF]
  | .ret => [0xF0]
  | .reti => [0xF8]

/-- The length of an instruction in bytes, the length column of R60 by the groups of R64. -/
def Instr.length : Instr → Nat
  | .ulv | .syscall | .ret | .reti => 1
  | .addr8 .. | .addr16 .. | .subr8 .. | .subr16 .. | .andr8 .. | .andr16 .. | .orr8 .. | .orr16 ..
  | .xorr8 .. | .xorr16 .. | .eqr8 .. | .eqr16 .. | .not8 .. | .not16 .. | .inc8 .. | .inc16 .. | .dec8 ..
  | .dec16 .. | .str8 .. | .str16 .. | .swp8 .. | .swp16 .. | .push8 .. | .push16 .. | .pop8 .. | .pop16 ..
  | .ldv8 .. | .ldv16 .. | .pushi8 .. | .ldvi8 .. => 2
  | .addi8 .. | .subi8 .. | .andi8 .. | .ori8 .. | .xori8 .. | .eqi8 .. | .sti8 .. | .pushi16 .. | .ldvi16 ..
  | .jmp .. | .be .. | .bne .. | .bg .. | .bl .. | .call .. => 3
  | .addi16 .. | .subi16 .. | .andi16 .. | .ori16 .. | .xori16 .. | .eqi16 .. | .sti16 .. | .stmr8 ..
  | .stmr16 .. | .stm8 .. | .ld8 .. | .ld16 .. => 4

end Sys2Proof
end

