-- ==== Sys2Proof/Machine/Memory.lean ====
section
/-! DEFINITION. Unified memory (spec/10_state.md R26, spec/20_memory.md R30): 65536 bytes, held as the list of the
bytes that differ from `unlisted`, in one canonical form, so that equal memories are equal lists. -/
namespace Sys2Proof.Machine

/-- Address and byte pairs. The canonical form is `Memory.wf`. -/
abbrev Memory := List Host.Cell

/-- What an address that is not listed reads as. The spec leaves a byte that nothing has written unspecified (R29);
DESIGN CHOICE 0, unsafe (notes/assumptions/2.md). -/
def Memory.unlisted : Byte := 0

/-- MEM_SIZE (spec/00_scope.md R5). -/
def Memory.size : Nat := 65536

/-- The byte at an address. -/
def Memory.read : Memory → Nat → Byte
  | [], _ => Memory.unlisted
  | (b, v) :: m, a => if b = a then v else Memory.read m a

/-- The list without its entries at `a`. -/
def Memory.erase : Memory → Nat → Memory
  | [], _ => []
  | (b, v) :: m, a => if b = a then Memory.erase m a else (b, v) :: Memory.erase m a

/-- The list with an entry put in before the first higher address. -/
def Memory.insert : Memory → Nat → Byte → Memory
  | [], a, v => [(a, v)]
  | (b, w) :: m, a, v => if a < b then (a, v) :: (b, w) :: m else (b, w) :: Memory.insert m a v

/-- Write one byte: writing what an unlisted address reads as removes the entry. -/
def Memory.write (m : Memory) (a : Nat) (v : Byte) : Memory :=
  if v = Memory.unlisted then Memory.erase m a else Memory.insert (Memory.erase m a) a v

/-- The canonical form: addresses inside the space and strictly rising, no entry equal to `unlisted`. -/
def Memory.wf : Memory → Bool
  | [] => true
  | (a, v) :: m => decide (a < Memory.size) && v != Memory.unlisted && m.all (fun c => decide (a < c.1)) && Memory.wf m

/-- The memory that any list of cells describes: the first entry of an address counts, addresses outside the space
are ignored. A list in canonical form describes itself. -/
def Memory.ofCells : List Host.Cell → Memory
  | [] => []
  | (a, v) :: cs => if a < Memory.size then Memory.write (Memory.ofCells cs) a v else Memory.ofCells cs

end Sys2Proof.Machine
end

