-- ==== Sys2Proof/Machine/RegFile.lean ====
section
/-! DEFINITION. The register file (spec/10_state.md R13): eight 8-bit and eight 16-bit registers, none aliased. `get` and `set`
here are the bare storage; what `zr` reads as, and which writes it keeps, is decided in Machine/Ops.lean (R24). -/
namespace Sys2Proof.Machine

/-- The sixteen registers, by the names of R14. -/
structure RegFile where
  r0 : Byte
  r1 : Byte
  r2 : Byte
  r3 : Byte
  r4 : Byte
  r5 : Byte
  r6 : Byte
  r7 : Byte
  vp : Word
  w0 : Word
  w1 : Word
  ic : Word
  fl : Word
  cr : Word
  sp : Word
  zr : Word
deriving DecidableEq, Repr, Inhabited

/-- The stored value of an 8-bit register. -/
def RegFile.get8 (rf : RegFile) : Reg8 → Byte
  | .r0 => rf.r0
  | .r1 => rf.r1
  | .r2 => rf.r2
  | .r3 => rf.r3
  | .r4 => rf.r4
  | .r5 => rf.r5
  | .r6 => rf.r6
  | .r7 => rf.r7

/-- The stored value of a 16-bit register. -/
def RegFile.get16 (rf : RegFile) : Reg16 → Word
  | .vp => rf.vp
  | .w0 => rf.w0
  | .w1 => rf.w1
  | .ic => rf.ic
  | .fl => rf.fl
  | .cr => rf.cr
  | .sp => rf.sp
  | .zr => rf.zr

/-- Store into an 8-bit register. -/
def RegFile.set8 (rf : RegFile) (g : Reg8) (v : Byte) : RegFile :=
  match g with
  | .r0 => { rf with r0 := v }
  | .r1 => { rf with r1 := v }
  | .r2 => { rf with r2 := v }
  | .r3 => { rf with r3 := v }
  | .r4 => { rf with r4 := v }
  | .r5 => { rf with r5 := v }
  | .r6 => { rf with r6 := v }
  | .r7 => { rf with r7 := v }

/-- Store into a 16-bit register. -/
def RegFile.set16 (rf : RegFile) (h : Reg16) (v : Word) : RegFile :=
  match h with
  | .vp => { rf with vp := v }
  | .w0 => { rf with w0 := v }
  | .w1 => { rf with w1 := v }
  | .ic => { rf with ic := v }
  | .fl => { rf with fl := v }
  | .cr => { rf with cr := v }
  | .sp => { rf with sp := v }
  | .zr => { rf with zr := v }

end Sys2Proof.Machine
end

