-- ==== Sys2Proof/Config.lean ====
section
/-! DEFINITION. The parameters of the ISA and of a run (spec/00_scope.md R5, R6) and the model's free values. The opaque
constants have no body, so nothing can be proved about the values they give. -/
namespace Sys2Proof

open Sys2Proof.Machine

/-- VAR_BASE, the base of the variable region and the reset value of `vp` (R5, R29). -/
def Config.varBase : Word := 32768

/-- The most bytes a program may have (R6, D16). -/
def Config.maxProgram : Nat := 65535

/-- ZR_MODE (spec/10_state.md R24): whether writes to `zr` persist. -/
inductive ZrMode where
  | storage
  | hardwiredZero
deriving DecidableEq, Repr, Inhabited

/-- SYSCALL_NR_SEL (spec/60_exceptions.md R136): "it may be any selector except 11". -/
structure SyscallReg where
  reg : Reg
  notIc : reg ≠ .r16 .ic
deriving DecidableEq, Repr

/-- The parameters of one run, which no step changes: PROG, ZR_MODE and SYSCALL_NR_SEL (R6). -/
structure Params where
  prog : List Byte
  zrMode : ZrMode
  nrSel : SyscallReg
deriving DecidableEq, Repr

/-- What the host answers to a syscall (spec/60_exceptions.md R136). `cont`'s value is taken at the width of the
call-number register: its low 8 bits where that register has class 8 (notes/assumptions/6.md). Its cells are the
whole memory mem' (notes/assumptions/7.md). -/
inductive HostAnswer where
  | cont (v : Word) (mem : List Host.Cell)
  | exit (code : Nat)
  | error (info : Nat)
deriving DecidableEq, Repr, Inhabited

/-- HOST (R136), an open parameter: the answer to a call whose answer `State.hostScript` does not give, from the count
of free values drawn before it, the call number, the registers and memory (notes/assumptions/5.md). -/
opaque Config.host : Nat → Value → RegFile → Memory → HostAnswer

/-- The registers after a fatal error, which R133 leaves unspecified (notes/assumptions/8.md). -/
opaque Config.regsAfterFatal : Nat → RegFile → Memory → RegFile

/-- The memory after a fatal error, which R133 leaves unspecified (notes/assumptions/8.md). -/
opaque Config.memAfterFatal : Nat → RegFile → Memory → List Host.Cell

end Sys2Proof
end

