-- ==== Sys2Proof/Machine/State.lean ====
section
/-! DEFINITION. The state of the machine (spec/10_state.md), the fatal errors (spec/60_exceptions.md R132), the refusals, and
the state after reset (R29, spec/70_reset_and_hazards.md R147). -/
namespace Sys2Proof.Machine

/-- The fatal errors of R132, each with the information that table records. A fault stops the machine (R9, R133); that
the registers and memory after it are left out is safe (notes/assumptions/8.md). -/
inductive Fault where
  /-- Code 1. Raised by the loop for an opcode byte outside the map (`bad = op`) and for a nonzero reserved nibble
  (`bad` is the register byte) (R53, R61). The spec's own fault: safe. -/
  | reservedEncoding (ic : Word) (op bad : Byte)
  /-- Code 2. Raised by reti (R130). The spec's own fault: safe. -/
  | unimplemented (ic : Word) (op : Byte)
  /-- Code 3. Raised by every instruction with a register field whose class is not its width (R54). Safe. -/
  | badSelector (ic : Word) (sel : BitVec 4)
  /-- Code 4. Raised by the loop for an instruction that does not fit in PROG (R74). Safe. -/
  | truncated (ic : Word) (len : Nat)
  /-- Code 5. Raised by the loop when the new ic is above L (R73). Safe. -/
  | icOverrun (ic : Word)
  /-- Code 6. Raised by an instruction whose register destination is `ic` (R55). Safe. -/
  | icWrite (ic : Word) (sel : BitVec 4)
  /-- Code 7. Raised by a 2-byte data access at 65535 (R38). Safe. -/
  | memoryBounds (addr : Word) (bytes : Nat)
  /-- Code 8. Raised by syscall when the host answers Error (R136). Safe. -/
  | hostError (info : Nat)
deriving DecidableEq, Repr

/-- Why the model refuses. -/
inductive Refusal where
  /-- Raised by exec for an instruction without a meaning. Safe. No instruction is left without one. -/
  | notModelled (mnemonic : String)
  /-- Raised by step in a state whose status is not Running: "no step is enabled from them" (R27). Safe. -/
  | noStepEnabled
  /-- Raised by start for a program longer than 65535 bytes (R147). Safe. -/
  | programTooLong
  /-- Raised by start for a storage descriptor that the loader must refuse (R148). Safe. -/
  | descriptorRefused
deriving DecidableEq, Repr

/-- The run status (R27). -/
inductive Status where
  | running
  | halted
  | exited (code : Nat)
  | fatal (f : Fault)
deriving DecidableEq, Repr

/-- The machine (R13, R26, R27), the parameters of the run (R6), and two fields of the model's own: the answers the
host gives next, and the count of free values drawn (notes/assumptions/5.md and 19.md). -/
structure State where
  regs : RegFile
  mem : Memory
  status : Status
  params : Params
  hostScript : List HostAnswer
  draws : Nat
deriving DecidableEq, Repr

/-- The outcome of an instruction or a step. -/
abbrev Result := Host.Outcome State Fault Refusal

/-- The registers right after reset (R29): vp, sp and zr as the spec gives them, ic at ENTRY, which is 0 for the
empty program; every other register holds 0, a DESIGN CHOICE (the spec gives a draw, notes/assumptions/1.md). -/
def RegFile.reset : RegFile :=
  { r0 := 0, r1 := 0, r2 := 0, r3 := 0, r4 := 0, r5 := 0, r6 := 0, r7 := 0,
    vp := Config.varBase, w0 := 0, w1 := 0, ic := 0, fl := 0, cr := 0, sp := 0, zr := 0 }

/-- The parameters with nothing loaded: the empty program, and the defaults that the spec's test vectors use for
ZR_MODE and SYSCALL_NR_SEL (R6; notes/assumptions/3.md and 4.md). -/
def Params.reset : Params :=
  { prog := [], zrMode := .storage, nrSel := { reg := .r16 .cr, notIc := by decide } }

/-- The machine right after the reset of R147 with nothing loaded. The CheckIC that ends the reset finds ic = L = 0,
so the status is Halted (R73: "A program with L = 0 ... halts at once without fetching"; notes/assumptions/11.md). -/
def State.reset : State :=
  { regs := RegFile.reset, mem := [], status := .halted, params := Params.reset, hostScript := [], draws := 0 }

end Sys2Proof.Machine
end

