-- ==== Sys2Proof/Machine/Ops.lean ====
section
/-! DEFINITION. The named operations over registers and memory (spec/20_memory.md, spec/40_loop.md), the decoder's outcomes
(R76, R77), and taking a fatal error (spec/60_exceptions.md R133). -/
namespace Sys2Proof.Machine

/-! ### Fatal errors -/

/-- `raise F(info)` (R9, R133): the machine stops with the fatal error; what the registers and memory then hold is
unspecified, so the outcome carries none. `State.afterFatal` below is the state it leaves. -/
def raise (f : Fault) : Result := .fault f

/-- The numeric codes of R132. -/
def Fault.code : Fault → Nat
  | .reservedEncoding .. => 1
  | .unimplemented .. => 2
  | .badSelector .. => 3
  | .truncated .. => 4
  | .icOverrun .. => 5
  | .icWrite .. => 6
  | .memoryBounds .. => 7
  | .hostError .. => 8

/-- The state that `raise F(info)` leaves (R133): status Fatal(F, info), registers and memory free values. -/
def State.afterFatal (f : Fault) (s : State) : State :=
  { s with
    regs := Config.regsAfterFatal s.draws s.regs s.mem
    mem := Memory.ofCells (Config.memAfterFatal s.draws s.regs s.mem)
    status := .fatal f
    draws := s.draws + 1 }

/-! ### Registers (R79, R80) -/

/-- The register is `zr` and ZR_MODE is HardwiredZero (R24). -/
def State.zrFixed (s : State) (h : Reg16) : Bool := h == .zr && s.params.zrMode == .hardwiredZero

/-- Read an 8-bit register. -/
def State.read8 (s : State) (g : Reg8) : Byte := s.regs.get8 g

/-- Read a 16-bit register: `ic` gives the offset of the current instruction's opcode byte, and `zr` reads as ZR_MODE
says (R24, R79). -/
def State.read16 (s : State) (h : Reg16) : Word :=
  if s.zrFixed h then 0 else s.regs.get16 h

/-- `x[s]` (R79): the value of the selected register, of that register's width. -/
def State.read (s : State) : Reg → Value
  | .r8 g => .v8 (s.read8 g)
  | .r16 h => .v16 (s.read16 h)

/-- Write an 8-bit register (R80). -/
def State.write8 (s : State) (g : Reg8) (v : Byte) : State := { s with regs := s.regs.set8 g v }

/-- Write a 16-bit register (R80): under HardwiredZero a write to `zr` has no effect (R24). No instruction gets here with
`ic`: its checks have raised IcWrite (R55). -/
def State.write16 (s : State) (h : Reg16) (v : Word) : State :=
  if s.zrFixed h then s else { s with regs := s.regs.set16 h v }

/-- `fl <- v`. -/
def State.setFl (s : State) (v : Word) : State := { s with regs := { s.regs with fl := v } }

/-- `sp <- v`. -/
def State.setSp (s : State) (v : Word) : State := { s with regs := { s.regs with sp := v } }

/-- `vp <- v`. -/
def State.setVp (s : State) (v : Word) : State := { s with regs := { s.regs with vp := v } }

/-- The register file as the host is shown it (R136): every register as a read gives it. -/
def State.regView (s : State) : RegFile := { s.regs with zr := s.read16 .zr }

/-! ### Unified memory (R38 to R42) -/

/-- The byte at an address of unified memory. -/
def State.byteAt (s : State) (a : Nat) : Byte := Memory.read s.mem a

/-- `MemRead(a, 1)` (R39). A 1-byte access is always inside memory (R38). -/
def State.memRead8 (s : State) (a : Word) : Byte := s.byteAt a.toNat

/-- R38: a data access of `n` bytes at `a` goes past 65535. -/
def outOfBounds (a : Word) (n : Nat) : Bool := decide (Memory.size < a.toNat + n)

/-- `MemRead(a, 2)` (R39), little-endian, then go on with the value; MemoryBounds when it goes past 65535 (R38). -/
def State.memRead16 (s : State) (a : Word) (k : Word → Result) : Result :=
  if outOfBounds a 2 then raise (.memoryBounds a 2)
  else k (le16 (s.byteAt a.toNat) (s.byteAt (a.toNat + 1)))

/-- `MemWrite(a, 1, v)` (R40). -/
def State.memWrite8 (s : State) (a : Word) (v : Byte) : State := { s with mem := Memory.write s.mem a.toNat v }

/-- Store the two bytes of `v` at `a` and `a + 1`, the low byte first (R40, R41). -/
def State.store16 (s : State) (a : Word) (v : Word) : State :=
  { s with mem := Memory.write (Memory.write s.mem a.toNat (loByte v)) (a.toNat + 1) (hiByte v) }

/-- `MemWrite(a, 2, v)` (R40), then go on in the state with both bytes stored; MemoryBounds, and nothing written,
when it goes past 65535 (R38). -/
def State.memWrite16 (s : State) (a : Word) (v : Word) (k : State → Result) : Result :=
  if outOfBounds a 2 then raise (.memoryBounds a 2) else k (s.store16 a v)

/-! ### The decoder's outcome and the advance (R76, R77) -/

/-- `Fell(n)`: `ic <- ic + n`. -/
def State.fell (s : State) (n : Nat) : State :=
  { s with regs := { s.regs with ic := s.regs.ic + BitVec.ofNat 16 n } }

/-- `Jumped(t)`: `ic <- t`. -/
def State.jumped (s : State) (t : Word) : State := { s with regs := { s.regs with ic := t } }

/-- `Exit(code)`: status Exited(code), `ic` not advanced (spec/60_exceptions.md R137). -/
def State.exited (s : State) (code : Nat) : State := { s with status := .exited code }

end Sys2Proof.Machine
end

