-- ==== Sys2Proof/Machine/Flags.lean ====
section
/-! DEFINITION. The flags register `fl` (spec/10_state.md R20): the three bits, what an equality writes (spec/41_alu.md R99),
and what the conditional branches read (spec/44_branch_call.md R123 to R126). -/
namespace Sys2Proof.Machine

/-- Bit 0, E. -/
def flagE : Word := 1

/-- Bit 1, G. -/
def flagG : Word := 2

/-- Bit 2, L. -/
def flagL : Word := 4

/-- What eqr and eqi write to all of `fl` (R99): E, G or L by an unsigned comparison, bits 15:3 zero. -/
def compareFlags (n : Nat) (x y : BitVec n) : Word :=
  (if x = y then flagE else 0) + (if y.toNat < x.toNat then flagG else 0) + (if x.toNat < y.toNat then flagL else 0)

/-- `fl[0]`, read by be and bne. -/
def State.flE (s : State) : Bool := s.regs.fl.getLsbD 0

/-- `fl[1]`, read by bg. -/
def State.flG (s : State) : Bool := s.regs.fl.getLsbD 1

/-- `fl[2]`, read by bl. -/
def State.flL (s : State) : Bool := s.regs.fl.getLsbD 2

end Sys2Proof.Machine
end

