-- ==== Sys2Proof/Machine/Operands.lean ====
section
/-! DEFINITION. The register operand forms: CheckFields (spec/40_loop.md R75) for one register field, which gives the register
the field names or raises the first check that fails. A meaning checks its fields in byte order, low nibble first, by
the order in which it nests these (spec/60_exceptions.md R134). The reserved nibble has been checked by the decoder. -/
namespace Sys2Proof.Machine

/-- A register field of a width-8 instruction, source or destination: class 8, else BadSelector (R54). `ic` has class
16, so a width-8 destination needs no further check. -/
def withReg8 (r : Reg) (s : State) (k : Reg8 → Result) : Result :=
  match r with
  | .r8 g => k g
  | .r16 _ => raise (.badSelector s.regs.ic r.selector)

/-- A register field of a width-16 instruction that is not a destination: class 16, else BadSelector (R54). -/
def withReg16 (r : Reg) (s : State) (k : Reg16 → Result) : Result :=
  match r with
  | .r8 _ => raise (.badSelector s.regs.ic r.selector)
  | .r16 h => k h

/-- A register destination of a width-16 instruction: class 16, else BadSelector (R54), then not `ic`, else IcWrite
(R55). -/
def withDest16 (r : Reg) (s : State) (k : Reg16 → Result) : Result :=
  withReg16 r s fun h => if h = .ic then raise (.icWrite s.regs.ic r.selector) else k h

end Sys2Proof.Machine
end

