-- ==== Sys2Proof/Machine/Alu.lean ====
section
/-! DEFINITION. Family 00, ALU and equality (spec/41_alu.md). One meaning per instruction over the shared operand shapes: a
register destination with a register, an immediate or no second operand. -/
namespace Sys2Proof.Machine

/-! ### The integer laws (R85) -/

/-- `(x + y) mod M`. -/
def addW (n : Nat) (x y : BitVec n) : BitVec n := BitVec.ofNat n (x.toNat + y.toNat)

/-- `(x - y + M) mod M`. -/
def subW (n : Nat) (x y : BitVec n) : BitVec n := BitVec.ofNat n (x.toNat + (2 ^ n - y.toNat))

/-- Bitwise AND. -/
def andW (n : Nat) (x y : BitVec n) : BitVec n := x &&& y

/-- Bitwise OR. -/
def orW (n : Nat) (x y : BitVec n) : BitVec n := x ||| y

/-- Bitwise XOR. -/
def xorW (n : Nat) (x y : BitVec n) : BitVec n := x ^^^ y

/-- `(M - 1) - x`. -/
def notW (n : Nat) (x : BitVec n) : BitVec n := BitVec.ofNat n (2 ^ n - 1 - x.toNat)

/-- `(x + 1) mod M`. -/
def incW (n : Nat) (x : BitVec n) : BitVec n := BitVec.ofNat n (x.toNat + 1)

/-- `(x + M - 1) mod M`. -/
def decW (n : Nat) (x : BitVec n) : BitVec n := BitVec.ofNat n (x.toNat + (2 ^ n - 1))

/-! ### The operand shapes (R84): the result goes to the first operand, every operand is read first (R81) -/

/-- `x[a] <- f(x[a], x[b])`, width 8, 2 bytes. -/
def aluRR8 (f : Byte → Byte → Byte) (a b : Reg) (s : State) : Result :=
  withReg8 a s fun d => withReg8 b s fun e => .next ((s.write8 d (f (s.read8 d) (s.read8 e))).fell 2)

/-- `x[a] <- f(x[a], x[b])`, width 16, 2 bytes. -/
def aluRR16 (f : Word → Word → Word) (a b : Reg) (s : State) : Result :=
  withDest16 a s fun d => withReg16 b s fun e => .next ((s.write16 d (f (s.read16 d) (s.read16 e))).fell 2)

/-- `x[a] <- f(x[a], imm)`, width 8, 3 bytes. -/
def aluRI8 (f : Byte → Byte → Byte) (a : Reg) (imm : Byte) (s : State) : Result :=
  withReg8 a s fun d => .next ((s.write8 d (f (s.read8 d) imm)).fell 3)

/-- `x[a] <- f(x[a], imm)`, width 16, 4 bytes. -/
def aluRI16 (f : Word → Word → Word) (a : Reg) (imm : Word) (s : State) : Result :=
  withDest16 a s fun d => .next ((s.write16 d (f (s.read16 d) imm)).fell 4)

/-- `x[a] <- f(x[a])`, width 8, 2 bytes. -/
def aluR8 (f : Byte → Byte) (a : Reg) (s : State) : Result :=
  withReg8 a s fun d => .next ((s.write8 d (f (s.read8 d))).fell 2)

/-- `x[a] <- f(x[a])`, width 16, 2 bytes. -/
def aluR16 (f : Word → Word) (a : Reg) (s : State) : Result :=
  withDest16 a s fun d => .next ((s.write16 d (f (s.read16 d))).fell 2)

/-! ### The meanings -/

/-- `addr.8 a b`, add register (R88). -/
def execAddr8 (a b : Reg) (s : State) : Result := aluRR8 (addW 8) a b s

/-- `addi.8 a imm`, add immediate (R89). -/
def execAddi8 (a : Reg) (imm : Byte) (s : State) : Result := aluRI8 (addW 8) a imm s

/-- `addr.16 a b`, add register (R88). -/
def execAddr16 (a b : Reg) (s : State) : Result := aluRR16 (addW 16) a b s

/-- `addi.16 a imm`, add immediate (R89). -/
def execAddi16 (a : Reg) (imm : Word) (s : State) : Result := aluRI16 (addW 16) a imm s

/-- `subr.8 a b`, subtract register (R90). -/
def execSubr8 (a b : Reg) (s : State) : Result := aluRR8 (subW 8) a b s

/-- `subi.8 a imm`, subtract immediate (R91). -/
def execSubi8 (a : Reg) (imm : Byte) (s : State) : Result := aluRI8 (subW 8) a imm s

/-- `subr.16 a b`, subtract register (R90). -/
def execSubr16 (a b : Reg) (s : State) : Result := aluRR16 (subW 16) a b s

/-- `subi.16 a imm`, subtract immediate (R91). -/
def execSubi16 (a : Reg) (imm : Word) (s : State) : Result := aluRI16 (subW 16) a imm s

/-- `andr.8 a b`, bitwise AND register (R92). -/
def execAndr8 (a b : Reg) (s : State) : Result := aluRR8 (andW 8) a b s

/-- `andi.8 a imm`, bitwise AND immediate (R93). -/
def execAndi8 (a : Reg) (imm : Byte) (s : State) : Result := aluRI8 (andW 8) a imm s

/-- `andr.16 a b`, bitwise AND register (R92). -/
def execAndr16 (a b : Reg) (s : State) : Result := aluRR16 (andW 16) a b s

/-- `andi.16 a imm`, bitwise AND immediate (R93). -/
def execAndi16 (a : Reg) (imm : Word) (s : State) : Result := aluRI16 (andW 16) a imm s

/-- `orr.8 a b`, bitwise OR register (R94). -/
def execOrr8 (a b : Reg) (s : State) : Result := aluRR8 (orW 8) a b s

/-- `ori.8 a imm`, bitwise OR immediate (R95). -/
def execOri8 (a : Reg) (imm : Byte) (s : State) : Result := aluRI8 (orW 8) a imm s

/-- `orr.16 a b`, bitwise OR register (R94). -/
def execOrr16 (a b : Reg) (s : State) : Result := aluRR16 (orW 16) a b s

/-- `ori.16 a imm`, bitwise OR immediate (R95). -/
def execOri16 (a : Reg) (imm : Word) (s : State) : Result := aluRI16 (orW 16) a imm s

/-- `xorr.8 a b`, bitwise XOR register (R96). -/
def execXorr8 (a b : Reg) (s : State) : Result := aluRR8 (xorW 8) a b s

/-- `xori.8 a imm`, bitwise XOR immediate (R97). -/
def execXori8 (a : Reg) (imm : Byte) (s : State) : Result := aluRI8 (xorW 8) a imm s

/-- `xorr.16 a b`, bitwise XOR register (R96). -/
def execXorr16 (a b : Reg) (s : State) : Result := aluRR16 (xorW 16) a b s

/-- `xori.16 a imm`, bitwise XOR immediate (R97). -/
def execXori16 (a : Reg) (imm : Word) (s : State) : Result := aluRI16 (xorW 16) a imm s

/-- `not.8 a`, bitwise complement (R98). -/
def execNot8 (a : Reg) (s : State) : Result := aluR8 (notW 8) a s

/-- `not.16 a`, bitwise complement (R98). -/
def execNot16 (a : Reg) (s : State) : Result := aluR16 (notW 16) a s

/-- `inc.8 a`, increment (R101). -/
def execInc8 (a : Reg) (s : State) : Result := aluR8 (incW 8) a s

/-- `inc.16 a`, increment (R101). -/
def execInc16 (a : Reg) (s : State) : Result := aluR16 (incW 16) a s

/-- `dec.8 a`, decrement (R102). -/
def execDec8 (a : Reg) (s : State) : Result := aluR8 (decW 8) a s

/-- `dec.16 a`, decrement (R102). -/
def execDec16 (a : Reg) (s : State) : Result := aluR16 (decW 16) a s

/-! ### Equality: all of `fl` is written, no operand register is (R99, R100) -/

/-- `eqr.8 a b`, compare two registers (R99). -/
def execEqr8 (a b : Reg) (s : State) : Result :=
  withReg8 a s fun d => withReg8 b s fun e => .next ((s.setFl (compareFlags 8 (s.read8 d) (s.read8 e))).fell 2)

/-- `eqr.16 a b`, compare two registers; either may be `ic` (R99, R55). -/
def execEqr16 (a b : Reg) (s : State) : Result :=
  withReg16 a s fun d => withReg16 b s fun e => .next ((s.setFl (compareFlags 16 (s.read16 d) (s.read16 e))).fell 2)

/-- `eqi.8 a imm`, compare a register with an immediate (R100). -/
def execEqi8 (a : Reg) (imm : Byte) (s : State) : Result :=
  withReg8 a s fun d => .next ((s.setFl (compareFlags 8 (s.read8 d) imm)).fell 3)

/-- `eqi.16 a imm`, compare a register with an immediate; the register may be `ic` (R100, R55). -/
def execEqi16 (a : Reg) (imm : Word) (s : State) : Result :=
  withReg16 a s fun d => .next ((s.setFl (compareFlags 16 (s.read16 d) imm)).fell 4)

end Sys2Proof.Machine
end

