-- ==== Sys2Proof/Machine/StackVar.lean ====
section
/-! DEFINITION. Family 10, stack and variable pointer (spec/43_stack_variable.md). `sp` is the address of the next free byte
and wraps modulo 65536; nothing checks it against the stack region (R111, spec/20_memory.md R32). -/
namespace Sys2Proof.Machine

/-! ### Push and pop as operations; call and ret use the 2-byte ones (spec/44_branch_call.md R127, R128) -/

/-- Write one byte at `sp`, then advance `sp` by 1 (R113). -/
def State.push8 (s : State) (v : Byte) : State := (s.memWrite8 s.regs.sp v).setSp (s.regs.sp + 1)

/-- Write two bytes at `sp`, then advance `sp` by 2, then go on; MemoryBounds when `sp` is 65535 (R113). -/
def State.push16 (s : State) (v : Word) (k : State → Result) : Result :=
  s.memWrite16 s.regs.sp v fun t => k (t.setSp (s.regs.sp + 2))

/-- Step `sp` back by 1, then go on with the byte there, in the state with the new `sp` (R115). -/
def State.pop8 (s : State) (k : State → Byte → Result) : Result :=
  let t := s.setSp (s.regs.sp - 1)
  k t (t.memRead8 t.regs.sp)

/-- Step `sp` back by 2, then go on with the two bytes there, in the state with the new `sp`; MemoryBounds when the new
`sp` is 65535 (R115). -/
def State.pop16 (s : State) (k : State → Word → Result) : Result :=
  let t := s.setSp (s.regs.sp - 2)
  t.memRead16 t.regs.sp fun v => k t v

/-! ### Push and pop -/

/-- `push.8 a`, push a register (R113). -/
def execPush8 (a : Reg) (s : State) : Result := withReg8 a s fun e => .next ((s.push8 (s.read8 e)).fell 2)

/-- `push.16 a`, push a register; `push.16 sp` pushes the old `sp` (R113). -/
def execPush16 (a : Reg) (s : State) : Result :=
  withReg16 a s fun e => s.push16 (s.read16 e) fun t => .next (t.fell 2)

/-- `pushi.8 imm`, push an immediate (R114). -/
def execPushi8 (imm : Byte) (s : State) : Result := .next ((s.push8 imm).fell 2)

/-- `pushi.16 imm`, push an immediate (R114). -/
def execPushi16 (imm : Word) (s : State) : Result := s.push16 imm fun t => .next (t.fell 3)

/-- `pop.8 a`, pop into a register (R115). -/
def execPop8 (a : Reg) (s : State) : Result :=
  withReg8 a s fun d => s.pop8 fun t v => .next ((t.write8 d v).fell 2)

/-- `pop.16 a`, pop into a register; `pop.16 sp` ends with the popped value (R115). -/
def execPop16 (a : Reg) (s : State) : Result :=
  withDest16 a s fun d => s.pop16 fun t v => .next ((t.write16 d v).fell 2)

/-! ### Variable pointer -/

/-- `ldv.8 a`, `vp` becomes the variable base plus the zero-extended register (R116). -/
def execLdv8 (a : Reg) (s : State) : Result :=
  withReg8 a s fun e => .next ((s.setVp (Config.varBase + (s.read8 e).setWidth 16)).fell 2)

/-- `ldv.16 a`, `vp` becomes the variable base plus the register, wrapping; a may be `ic` (R116). -/
def execLdv16 (a : Reg) (s : State) : Result :=
  withReg16 a s fun e => .next ((s.setVp (Config.varBase + s.read16 e)).fell 2)

/-- `ldvi.8 imm`, `vp` becomes the variable base plus the zero-extended immediate (R117). -/
def execLdvi8 (imm : Byte) (s : State) : Result := .next ((s.setVp (Config.varBase + imm.setWidth 16)).fell 2)

/-- `ldvi.16 imm`, `vp` becomes the variable base plus the immediate, wrapping (R117). -/
def execLdvi16 (imm : Word) (s : State) : Result := .next ((s.setVp (Config.varBase + imm)).fell 3)

/-- `ulv`, `vp` becomes the variable base (R118). -/
def execUlv (s : State) : Result := .next ((s.setVp Config.varBase).fell 1)

end Sys2Proof.Machine
end

