-- ==== Sys2Proof/Machine/BranchCall.lean ====
section
/-! DEFINITION. Family 11, branch, call, return and the syscall trap (spec/44_branch_call.md). Targets are offsets into PROG; the
loop checks them after the instruction (R120). -/
namespace Sys2Proof.Machine

/-- A conditional branch: `Jumped(t)` when taken, `Fell(3)` when not (R119). -/
def branchIf (taken : Bool) (t : Word) (s : State) : Result := .next (if taken then s.jumped t else s.fell 3)

/-- `jmp t` (R122). -/
def execJmp (t : Word) (s : State) : Result := .next (s.jumped t)

/-- `be t`, taken when E is 1 (R123). -/
def execBe (t : Word) (s : State) : Result := branchIf s.flE t s

/-- `bne t`, taken when E is 0 (R124). -/
def execBne (t : Word) (s : State) : Result := branchIf (!s.flE) t s

/-- `bg t`, taken when G is 1 (R125). -/
def execBg (t : Word) (s : State) : Result := branchIf s.flG t s

/-- `bl t`, taken when L is 1 (R126). -/
def execBl (t : Word) (s : State) : Result := branchIf s.flL t s

/-- `call t`, push `ic + 3` and jump (R127). -/
def execCall (t : Word) (s : State) : Result := s.push16 (s.regs.ic + 3) fun u => .next (u.jumped t)

/-- `ret`, pop the address to jump to (R128). -/
def execRet (s : State) : Result := s.pop16 fun u t => .next (u.jumped t)

/-! ### The syscall trap (R129, spec/60_exceptions.md R135 to R138) -/

/-- The host's answer to the next call: the scripted one, else the open HOST, given the call number, the registers and
memory (R136; notes/assumptions/5.md). -/
def State.hostAnswer (s : State) : HostAnswer :=
  match s.hostScript with
  | a :: _ => a
  | [] => Config.host s.draws (s.read s.params.nrSel.reg) s.regView s.mem

/-- The host has answered: its scripted answer is used up, or one more free value is drawn. -/
def State.hostAnswered (s : State) : State :=
  match s.hostScript with
  | _ :: rest => { s with hostScript := rest }
  | [] => { s with draws := s.draws + 1 }

/-- `x[SYSCALL_NR_SEL] <- v`, at the width of that register (R129, R136; notes/assumptions/6.md). -/
def State.writeResult (s : State) (v : Word) : State :=
  match s.params.nrSel.reg with
  | .r8 g => s.write8 g (v.setWidth 8)
  | .r16 h => s.write16 h v

/-- What each answer does (R129): Continue writes the result and replaces memory, Exit stops the run, Error is
HostError. -/
def applyAnswer (a : HostAnswer) (s : State) : Result :=
  match a with
  | .cont v mem => .next (({ s.writeResult v with mem := Memory.ofCells mem } : State).fell 1)
  | .exit code => .next (s.exited code)
  | .error info => raise (.hostError info)

/-- `syscall`, the trap to the host (R129). -/
def execSyscall (s : State) : Result := applyAnswer s.hostAnswer s.hostAnswered

/-- `reti`: "Return-from-interrupt is declared but not implemented — treat as fatal" (R130). -/
def execReti (s : State) : Result := raise (.unimplemented s.regs.ic 0xF8)

end Sys2Proof.Machine
end

