-- ==== Sys2Proof/Machine/LoadStore.lean ====
section
/-! DEFINITION. Family 01, load and store (spec/42_load_store.md). Memory addresses are absolute, nothing is added to them
(spec/20_memory.md R33). -/
namespace Sys2Proof.Machine

/-! ### Register targets -/

/-- `str.8 a b`, register move (R105). -/
def execStr8 (a b : Reg) (s : State) : Result :=
  withReg8 a s fun d => withReg8 b s fun e => .next ((s.write8 d (s.read8 e)).fell 2)

/-- `str.16 a b`, register move; b may be `ic` (R105). -/
def execStr16 (a b : Reg) (s : State) : Result :=
  withDest16 a s fun d => withReg16 b s fun e => .next ((s.write16 d (s.read16 e)).fell 2)

/-- `sti.8 a imm`, store immediate to register (R106). -/
def execSti8 (a : Reg) (imm : Byte) (s : State) : Result :=
  withReg8 a s fun d => .next ((s.write8 d imm).fell 3)

/-- `sti.16 a imm`, store immediate to register (R106). -/
def execSti16 (a : Reg) (imm : Word) (s : State) : Result :=
  withDest16 a s fun d => .next ((s.write16 d imm).fell 4)

/-! ### Memory targets -/

/-- `stmr.8 addr a`, store register to memory (R107). -/
def execStmr8 (addr : Word) (a : Reg) (s : State) : Result :=
  withReg8 a s fun e => .next ((s.memWrite8 addr (s.read8 e)).fell 4)

/-- `stmr.16 addr a`, store register to memory; a may be `ic` (R107). -/
def execStmr16 (addr : Word) (a : Reg) (s : State) : Result :=
  withReg16 a s fun e => s.memWrite16 addr (s.read16 e) fun t => .next (t.fell 4)

/-- `stm.8 addr imm`, store an 8-bit immediate to memory (R108). -/
def execStm8 (addr : Word) (imm : Byte) (s : State) : Result := .next ((s.memWrite8 addr imm).fell 4)

/-! ### Memory source -/

/-- `ld.8 a addr`, load register from memory (R109). -/
def execLd8 (a : Reg) (addr : Word) (s : State) : Result :=
  withReg8 a s fun d => .next ((s.write8 d (s.memRead8 addr)).fell 4)

/-- `ld.16 a addr`, load register from memory (R109). -/
def execLd16 (a : Reg) (addr : Word) (s : State) : Result :=
  withDest16 a s fun d => s.memRead16 addr fun v => .next ((s.write16 d v).fell 4)

/-! ### Swap: both operands are read, then a is written, then b (R110) -/

/-- `swp.8 a b`, exchange two registers (R110). -/
def execSwp8 (a b : Reg) (s : State) : Result :=
  withReg8 a s fun d => withReg8 b s fun e => .next (((s.write8 d (s.read8 e)).write8 e (s.read8 d)).fell 2)

/-- `swp.16 a b`, exchange two registers; both are destinations (R110, R55). -/
def execSwp16 (a b : Reg) (s : State) : Result :=
  withDest16 a s fun d => withDest16 b s fun e => .next (((s.write16 d (s.read16 e)).write16 e (s.read16 d)).fell 2)

end Sys2Proof.Machine
end

