-- ==== Sys2Proof/Machine/Dispatch.lean ====
section
/-! DEFINITION. The dispatch of an instruction to its meaning (spec/40_loop.md R72), one arm per row of the opcode table. -/
namespace Sys2Proof.Machine

def exec (i : Instr) (s : State) : Host.Outcome State Fault Refusal :=
  match i with
  | .addr8 a b => Sys2Proof.Machine.execAddr8 a b s
  | .addi8 a imm => Sys2Proof.Machine.execAddi8 a imm s
  | .addr16 a b => Sys2Proof.Machine.execAddr16 a b s
  | .addi16 a imm => Sys2Proof.Machine.execAddi16 a imm s
  | .subr8 a b => Sys2Proof.Machine.execSubr8 a b s
  | .subi8 a imm => Sys2Proof.Machine.execSubi8 a imm s
  | .subr16 a b => Sys2Proof.Machine.execSubr16 a b s
  | .subi16 a imm => Sys2Proof.Machine.execSubi16 a imm s
  | .andr8 a b => Sys2Proof.Machine.execAndr8 a b s
  | .andi8 a imm => Sys2Proof.Machine.execAndi8 a imm s
  | .andr16 a b => Sys2Proof.Machine.execAndr16 a b s
  | .andi16 a imm => Sys2Proof.Machine.execAndi16 a imm s
  | .orr8 a b => Sys2Proof.Machine.execOrr8 a b s
  | .ori8 a imm => Sys2Proof.Machine.execOri8 a imm s
  | .orr16 a b => Sys2Proof.Machine.execOrr16 a b s
  | .ori16 a imm => Sys2Proof.Machine.execOri16 a imm s
  | .xorr8 a b => Sys2Proof.Machine.execXorr8 a b s
  | .xori8 a imm => Sys2Proof.Machine.execXori8 a imm s
  | .xorr16 a b => Sys2Proof.Machine.execXorr16 a b s
  | .xori16 a imm => Sys2Proof.Machine.execXori16 a imm s
  | .not8 a => Sys2Proof.Machine.execNot8 a s
  | .not16 a => Sys2Proof.Machine.execNot16 a s
  | .eqr8 a b => Sys2Proof.Machine.execEqr8 a b s
  | .eqi8 a imm => Sys2Proof.Machine.execEqi8 a imm s
  | .eqr16 a b => Sys2Proof.Machine.execEqr16 a b s
  | .eqi16 a imm => Sys2Proof.Machine.execEqi16 a imm s
  | .inc8 a => Sys2Proof.Machine.execInc8 a s
  | .inc16 a => Sys2Proof.Machine.execInc16 a s
  | .dec8 a => Sys2Proof.Machine.execDec8 a s
  | .dec16 a => Sys2Proof.Machine.execDec16 a s
  | .str8 a b => Sys2Proof.Machine.execStr8 a b s
  | .stmr8 addr a => Sys2Proof.Machine.execStmr8 addr a s
  | .sti8 a imm => Sys2Proof.Machine.execSti8 a imm s
  | .stm8 addr imm => Sys2Proof.Machine.execStm8 addr imm s
  | .str16 a b => Sys2Proof.Machine.execStr16 a b s
  | .stmr16 addr a => Sys2Proof.Machine.execStmr16 addr a s
  | .sti16 a imm => Sys2Proof.Machine.execSti16 a imm s
  | .ld8 a addr => Sys2Proof.Machine.execLd8 a addr s
  | .ld16 a addr => Sys2Proof.Machine.execLd16 a addr s
  | .swp8 a b => Sys2Proof.Machine.execSwp8 a b s
  | .swp16 a b => Sys2Proof.Machine.execSwp16 a b s
  | .push8 a => Sys2Proof.Machine.execPush8 a s
  | .pushi8 imm => Sys2Proof.Machine.execPushi8 imm s
  | .push16 a => Sys2Proof.Machine.execPush16 a s
  | .pushi16 imm => Sys2Proof.Machine.execPushi16 imm s
  | .pop8 a => Sys2Proof.Machine.execPop8 a s
  | .pop16 a => Sys2Proof.Machine.execPop16 a s
  | .ldv8 a => Sys2Proof.Machine.execLdv8 a s
  | .ldvi8 imm => Sys2Proof.Machine.execLdvi8 imm s
  | .ldv16 a => Sys2Proof.Machine.execLdv16 a s
  | .ldvi16 imm => Sys2Proof.Machine.execLdvi16 imm s
  | .ulv => Sys2Proof.Machine.execUlv s
  | .jmp t => Sys2Proof.Machine.execJmp t s
  | .be t => Sys2Proof.Machine.execBe t s
  | .bne t => Sys2Proof.Machine.execBne t s
  | .bg t => Sys2Proof.Machine.execBg t s
  | .bl t => Sys2Proof.Machine.execBl t s
  | .call t => Sys2Proof.Machine.execCall t s
  | .syscall => Sys2Proof.Machine.execSyscall s
  | .ret => Sys2Proof.Machine.execRet s
  | .reti => Sys2Proof.Machine.execReti s

end Sys2Proof.Machine
end

