-- ==== Sys2Proof/Machine/Loop.lean ====
section
/-! DEFINITION. The fetch-decode-execute loop around exec (spec/40_loop.md): fetching, the faults of decoding, CheckIC, and the
placing of an instruction where the loop fetches next. -/
namespace Sys2Proof.Machine

/-- `CheckIC()` (R73): `ic` against L. -/
def checkIC (s : State) : Result :=
  if s.regs.ic.toNat = s.params.prog.length then .next { s with status := .halted }
  else if s.params.prog.length < s.regs.ic.toNat then raise (.icOverrun s.regs.ic)
  else .next s

/-- What follows an instruction (R72): CheckIC after an advance or a jump, nothing after an exit. -/
def afterExec (r : Result) : Result :=
  match r with
  | .next s =>
    match s.status with
    | .running => checkIC s
    | _ => .next s
  | .fault f => .fault f
  | .refused e => .refused e

/-- The fatal error of bytes that do not decode (R72, R132). With no byte at `ic` there is nothing to fetch, and the
loop's check of `ic` decides (R71 step 5; notes/assumptions/10.md). -/
def decodeFault (e : DecodeFault) (s : State) : Result :=
  match e with
  | .noByte => checkIC s
  | .reservedOpcode op => raise (.reservedEncoding s.regs.ic op op)
  | .truncated len => raise (.truncated s.regs.ic len)
  | .reservedNibble op bad => raise (.reservedEncoding s.regs.ic op bad)

/-- The bytes of PROG from `ic` on (R36). -/
def State.fetchBytes (s : State) : List Byte := s.params.prog.drop s.regs.ic.toNat

/-- One step from a Running state (R72). -/
def fetchExec (s : State) : Result :=
  match decode s.fetchBytes with
  | .ok (i, _) => afterExec (exec i s)
  | .error e => decodeFault e s

/-- One step: only a Running state has one (R27). -/
def loopStep (s : State) : Result :=
  match s.status with
  | .running => fetchExec s
  | .halted => .refused .noStepEnabled
  | .exited _ => .refused .noStepEnabled
  | .fatal _ => .refused .noStepEnabled

/-- The machine one step on, with `raise` as R133 describes it: a fault leaves status Fatal, and a state from which
no step is enabled stays as it is (R27). -/
def settle (s : State) : State :=
  match loopStep s with
  | .next t => t
  | .fault f => s.afterFatal f
  | .refused _ => s

/-- `s` running, with `bs` in PROG from `ic` on. PROG is filled up with zeros below `ic` where it is shorter, and cut at
the most bytes a program may have (notes/assumptions/11.md). -/
def State.placeAtIc (s : State) (bs : List Byte) : State :=
  let n := s.regs.ic.toNat
  let prog := s.params.prog
  let below := prog.take n ++ List.replicate (n - prog.length) 0
  { s with
    status := .running
    params := { s.params with prog := (below ++ (bs ++ prog.drop (n + bs.length))).take Config.maxProgram } }

end Sys2Proof.Machine
end

