-- ==== Sys2Proof/Machine/Step.lean ====
section
/-! DEFINITION. One step of the machine, and the instruction placed where the step fetches next. -/
namespace Sys2Proof.Machine

/-- One step (spec/40_loop.md R72). -/
def step (s : State) : Host.Outcome State Fault Refusal := loopStep s

/-- `s` with the table word's four bytes where the next step fetches, and running. -/
def State.withFetchWord (s : State) (nbits w : Nat) : State := s.placeAtIc (tableBytes nbits w)

end Sys2Proof.Machine
end

