-- ==== Sys2Proof/Machine/Boot.lean ====
section
/-! DEFINITION. How a run starts (spec/70_reset_and_hazards.md R147, R148): the reset draw, the loader, the entry point. -/
namespace Sys2Proof.Machine

/-- A variable of the storage descriptor: "{size, offset, optional initializer bytes}" (R148). -/
structure Variable where
  size : Nat
  offset : Nat
  init : Option (List Byte)
deriving DecidableEq, Repr

/-- What the loader is given: PROG, ENTRY, the storage descriptor, the open parameters of R6, and the host's answers. -/
structure Image where
  prog : List Byte
  entry : Word
  descriptor : List Variable
  zrMode : ZrMode
  nrSel : SyscallReg
  hostScript : List HostAnswer
deriving DecidableEq, Repr

/-- RESET_DRAW (R6, R29): the values of the registers and bytes that reset leaves unspecified. The draw's vp, ic, sp
and zr are not used. -/
structure ResetDraw where
  regs : RegFile
  mem : List Host.Cell
deriving DecidableEq, Repr

/-- The address in unified memory of an offset into the variable region (R148). -/
def variableAddress (offset : Nat) : Nat := Config.varBase.toNat + offset

/-- The bytes the loader stores for a variable: its initializer, or zeros (R148). -/
def Variable.bytes (v : Variable) : List Byte :=
  match v.init with
  | some bs => bs
  | none => List.replicate v.size 0

/-- A descriptor the loader takes, from the next free offset on (R148): offsets assigned left to right, an initializer
as long as its variable, the last byte not above 65535. -/
def descriptorOk : Nat → List Variable → Bool
  | _, [] => true
  | next, v :: vs =>
    v.offset == next && v.bytes.length == v.size && decide (variableAddress (v.offset + v.size) ≤ Memory.size)
      && descriptorOk (next + v.size) vs

/-- Store bytes one after the other from an address on. -/
def storeBytes (m : Memory) (a : Nat) : List Byte → Memory
  | [] => m
  | b :: bs => storeBytes (Memory.write m a b) (a + 1) bs

/-- `Load(descriptor)` (R148). -/
def loadVariables (m : Memory) : List Variable → Memory
  | [] => m
  | v :: vs => loadVariables (storeBytes m (variableAddress v.offset) v.bytes) vs

/-- The state before the CheckIC of R147: the reset values of R29 with the unspecified ones drawn, the variables
loaded, ic at ENTRY, status Running. -/
def boot (img : Image) (draw : ResetDraw) : State :=
  { regs := { draw.regs with vp := Config.varBase, sp := 0, zr := 0, ic := img.entry }
    mem := loadVariables (Memory.ofCells draw.mem) img.descriptor
    status := .running
    params := { prog := img.prog, zrMode := img.zrMode, nrSel := img.nrSel }
    hostScript := img.hostScript
    draws := 0 }

/-- `Start` (R147): a program longer than 65535 bytes and a descriptor that does not fit are refused; then reset, load,
and CheckIC. -/
def start (img : Image) (draw : ResetDraw) : Result :=
  if Config.maxProgram < img.prog.length then .refused .programTooLong
  else if descriptorOk 0 img.descriptor then checkIC (boot img draw)
  else .refused .descriptorRefused

end Sys2Proof.Machine
end

