-- ==== Sys2Proof/Safety.lean ====
section
/-! DEFINITION. What counts as a safe run, the invariant of the machine, and the terms in which claims about it are stated:
frames, completion, and the spec's own tables of operand fields, register writers, memory writers and reserved bytes. -/
namespace Sys2Proof.Machine

/-! ### Runs -/

/-- What every state on a run meets: memory in canonical form (the model's own, notes/assumptions/2.md), a program of at most 65535 bytes (R147), `ic` inside
the program while Running (R73) and after an exit (R137), `ic` at its end when Halted (R83). -/
def State.Inv (s : State) : Prop :=
  Memory.wf s.mem = true ∧ s.params.prog.length ≤ Config.maxProgram ∧
    (s.status = .running → s.regs.ic.toNat < s.params.prog.length) ∧
    (s.status = .halted → s.regs.ic.toNat = s.params.prog.length) ∧
    (∀ code, s.status = .exited code → s.regs.ic.toNat < s.params.prog.length)

/-- `n` steps from `s` raise no fatal error: a run that faults is never a successful one (R83, R133). -/
def SafeRun (n : Nat) (s : State) : Prop := ∀ f, Host.Core.run core n s ≠ .fault f

/-- The run has ended cleanly (R83). -/
def State.CleanEnd (s : State) : Prop := s.status = .halted

/-! ### Completion and frames -/

/-- `exec` answers a next state, and `Q` holds of it. -/
def Completes (i : Instr) (s : State) (Q : State → Prop) : Prop := ∃ t, exec i s = .next t ∧ Q t

/-- `step` answers a next state, and `Q` holds of it. -/
def Steps (s : State) (Q : State → Prop) : Prop := ∃ t, step s = .next t ∧ Q t

/-- Every register outside `changed` reads as before. -/
def RegsKept (changed : List Reg) (s t : State) : Prop := ∀ r, r ∉ changed → t.read r = s.read r

/-- The status, the parameters, the host's answers and the count of free values are as before; the last two are the
model's own fields (notes/assumptions/5.md and 19.md). -/
def RestKept (s t : State) : Prop :=
  t.status = s.status ∧ t.params = s.params ∧ t.hostScript = s.hostScript ∧ t.draws = s.draws

/-- Every byte of memory reads as before. -/
def MemKept (s t : State) : Prop := ∀ a, t.byteAt a = s.byteAt a

/-- Every byte of memory outside the `n` bytes from `a` on reads as before. -/
def MemKeptOutside (a n : Nat) (s t : State) : Prop := ∀ b, ¬(a ≤ b ∧ b < a + n) → t.byteAt b = s.byteAt b

/-- The instruction fell through: `ic` is `n` further, only the registers `changed` and `ic` may differ, and nothing but
registers and memory does. The sum is modulo 65536, which no run reaches (R78, notes/assumptions/15.md). -/
def FellThrough (n : Nat) (changed : List Reg) (s t : State) : Prop :=
  t.regs.ic = s.regs.ic + BitVec.ofNat 16 n ∧ RegsKept (.r16 .ic :: changed) s t ∧ RestKept s t

/-- A 16-bit register was written with `v`: it reads `v`, or 0 where it is `zr` under HardwiredZero (R24, R80). -/
def Wrote16 (d : Reg16) (v : Nat) (s t : State) : Prop :=
  (t.read16 d).toNat = if d = .zr ∧ s.params.zrMode = .hardwiredZero then 0 else v

/-- The 2 bytes at `a` and `a + 1` hold `v`, the low byte first (R40, R41). -/
def Holds16 (a : Nat) (v : Word) (t : State) : Prop :=
  (t.byteAt a).toNat = v.toNat % 256 ∧ (t.byteAt (a + 1)).toNat = v.toNat / 256

/-! ### Shapes of ALU instructions (R84); `f` is the result as a number -/

/-- A width-8 instruction on two registers computes `f` into the first. -/
def Computes8 (i : Reg → Reg → Instr) (f : Nat → Nat → Nat) : Prop :=
  ∀ (s : State) (d e : Reg8), Completes (i (.r8 d) (.r8 e)) s fun t =>
    (t.read8 d).toNat = f (s.read8 d).toNat (s.read8 e).toNat ∧ FellThrough 2 [.r8 d] s t ∧ MemKept s t

/-- A width-16 instruction on two registers computes `f` into the first. -/
def Computes16 (i : Reg → Reg → Instr) (f : Nat → Nat → Nat) : Prop :=
  ∀ (s : State) (d e : Reg16), d ≠ .ic → Completes (i (.r16 d) (.r16 e)) s fun t =>
    Wrote16 d (f (s.read16 d).toNat (s.read16 e).toNat) s t ∧ FellThrough 2 [.r16 d] s t ∧ MemKept s t

/-- A width-8 instruction on a register and an immediate computes `f` into the register. -/
def ComputesImm8 (i : Reg → Byte → Instr) (f : Nat → Nat → Nat) : Prop :=
  ∀ (s : State) (d : Reg8) (imm : Byte), Completes (i (.r8 d) imm) s fun t =>
    (t.read8 d).toNat = f (s.read8 d).toNat imm.toNat ∧ FellThrough 3 [.r8 d] s t ∧ MemKept s t

/-- A width-16 instruction on a register and an immediate computes `f` into the register. -/
def ComputesImm16 (i : Reg → Word → Instr) (f : Nat → Nat → Nat) : Prop :=
  ∀ (s : State) (d : Reg16) (imm : Word), d ≠ .ic → Completes (i (.r16 d) imm) s fun t =>
    Wrote16 d (f (s.read16 d).toNat imm.toNat) s t ∧ FellThrough 4 [.r16 d] s t ∧ MemKept s t

/-- A width-8 instruction on one register computes `f` into it. -/
def ComputesUnary8 (i : Reg → Instr) (f : Nat → Nat) : Prop :=
  ∀ (s : State) (d : Reg8), Completes (i (.r8 d)) s fun t =>
    (t.read8 d).toNat = f (s.read8 d).toNat ∧ FellThrough 2 [.r8 d] s t ∧ MemKept s t

/-- A width-16 instruction on one register computes `f` into it. -/
def ComputesUnary16 (i : Reg → Instr) (f : Nat → Nat) : Prop :=
  ∀ (s : State) (d : Reg16), d ≠ .ic → Completes (i (.r16 d)) s fun t =>
    Wrote16 d (f (s.read16 d).toNat) s t ∧ FellThrough 2 [.r16 d] s t ∧ MemKept s t

/-- What an equality leaves (R99): `fl` is 1, 2 or 4 by the unsigned comparison, and nothing else is written. -/
def Compared (n x y : Nat) (s t : State) : Prop :=
  t.regs.fl.toNat = (if x = y then 1 else 0) + (if x > y then 2 else 0) + (if x < y then 4 else 0) ∧
    FellThrough n [.r16 .fl] s t ∧ MemKept s t

end Sys2Proof.Machine

namespace Sys2Proof

open Sys2Proof.Machine

/-! ### The operand-field checks (R54, R55, R75) -/

/-- A register operand field: the register it names, whether the instruction has width 16, whether it is a destination. -/
structure OperandField where
  reg : Reg
  wide : Bool
  dest : Bool

/-- The register operand fields of each instruction in byte order, the low nibble first (R51, R55). -/
def Instr.operandFields : Instr → List OperandField
  | .addr8 a b | .subr8 a b | .andr8 a b | .orr8 a b | .xorr8 a b | .str8 a b => [⟨a, false, true⟩, ⟨b, false, false⟩]
  | .addr16 a b | .subr16 a b | .andr16 a b | .orr16 a b | .xorr16 a b | .str16 a b =>
    [⟨a, true, true⟩, ⟨b, true, false⟩]
  | .addi8 a _ | .subi8 a _ | .andi8 a _ | .ori8 a _ | .xori8 a _ | .sti8 a _ => [⟨a, false, true⟩]
  | .addi16 a _ | .subi16 a _ | .andi16 a _ | .ori16 a _ | .xori16 a _ | .sti16 a _ => [⟨a, true, true⟩]
  | .not8 a | .inc8 a | .dec8 a | .pop8 a | .ld8 a _ => [⟨a, false, true⟩]
  | .not16 a | .inc16 a | .dec16 a | .pop16 a | .ld16 a _ => [⟨a, true, true⟩]
  | .eqr8 a b => [⟨a, false, false⟩, ⟨b, false, false⟩]
  | .eqr16 a b => [⟨a, true, false⟩, ⟨b, true, false⟩]
  | .eqi8 a _ | .push8 a | .ldv8 a | .stmr8 _ a => [⟨a, false, false⟩]
  | .eqi16 a _ | .push16 a | .ldv16 a | .stmr16 _ a => [⟨a, true, false⟩]
  | .swp8 a b => [⟨a, false, true⟩, ⟨b, false, true⟩]
  | .swp16 a b => [⟨a, true, true⟩, ⟨b, true, true⟩]
  | .stm8 _ _ | .pushi8 _ | .pushi16 _ | .ldvi8 _ | .ldvi16 _ | .ulv | .jmp _ | .be _ | .bne _ | .bg _ | .bl _ | .call _
  | .syscall | .ret | .reti => []

/-- The fatal error of one field (R75): BadSelector for the wrong class, then IcWrite for a destination `ic`. -/
def OperandField.fault (ic : Word) (f : OperandField) : Option Fault :=
  if f.reg.is16 ≠ f.wide then some (.badSelector ic f.reg.selector)
  else if f.dest = true ∧ f.reg = .r16 .ic then some (.icWrite ic 11)
  else none

/-- The fatal error of the first field that fails (R75, R134). -/
def firstFieldFault (ic : Word) (fs : List OperandField) : Option Fault := fs.findSome? (OperandField.fault ic)

/-! ### Who writes what (R25, R43) -/

/-- The equality instructions, the only ones that set flags (R86). -/
def Instr.isEquality : Instr → Bool
  | .eqr8 .. | .eqr16 .. | .eqi8 .. | .eqi16 .. => true
  | _ => false

/-- The instructions that move `sp` by their definition (R25). -/
def Instr.movesSp : Instr → Bool
  | .push8 .. | .push16 .. | .pushi8 .. | .pushi16 .. | .pop8 .. | .pop16 .. | .call .. | .ret => true
  | _ => false

/-- The instructions that set `vp` by their definition (R25). -/
def Instr.setsVp : Instr → Bool
  | .ldv8 .. | .ldv16 .. | .ldvi8 .. | .ldvi16 .. | .ulv => true
  | _ => false

/-- The jumps of R74: the instructions that can set `ic` to a target. -/
def Instr.isJump : Instr → Bool
  | .jmp .. | .be .. | .bne .. | .bg .. | .bl .. | .call .. | .ret => true
  | _ => false

/-- The registers an instruction may write (R25): `ic`, its register destinations, and the registers its definition
names. syscall also writes the call-number register, which is not in the instruction. -/
def Instr.writes (i : Instr) : List Reg :=
  .r16 .ic :: ((i.operandFields.filter OperandField.dest).map OperandField.reg) ++
    (if i.isEquality then [.r16 .fl] else []) ++ (if i.movesSp then [.r16 .sp] else []) ++
    (if i.setsVp then [.r16 .vp] else [])

/-- The instructions that write unified memory (R43), syscall left out. -/
def Instr.storesToMemory : Instr → Bool
  | .stmr8 .. | .stmr16 .. | .stm8 .. | .push8 .. | .push16 .. | .pushi8 .. | .pushi16 .. | .call .. => true
  | _ => false

/-- The instructions with a 2-byte data access, the ones that can raise MemoryBounds (R132). -/
def Instr.hasWideAccess : Instr → Bool
  | .stmr16 .. | .ld16 .. | .push16 .. | .pushi16 .. | .pop16 .. | .call .. | .ret => true
  | _ => false

/-- The register operands have width 8: the mnemonics with the suffix .8 (R66). -/
def Instr.isWidth8 : Instr → Bool
  | .addr8 .. | .addi8 .. | .subr8 .. | .subi8 .. | .andr8 .. | .andi8 .. | .orr8 .. | .ori8 .. | .xorr8 .. | .xori8 ..
  | .not8 .. | .eqr8 .. | .eqi8 .. | .inc8 .. | .dec8 .. | .str8 .. | .stmr8 .. | .sti8 .. | .stm8 .. | .ld8 .. | .swp8 ..
  | .push8 .. | .pushi8 .. | .pop8 .. | .ldv8 .. | .ldvi8 .. => true
  | _ => false

/-- The register operands have width 16: the mnemonics with the suffix .16 (R66). -/
def Instr.isWidth16 : Instr → Bool
  | .addr16 .. | .addi16 .. | .subr16 .. | .subi16 .. | .andr16 .. | .andi16 .. | .orr16 .. | .ori16 .. | .xorr16 ..
  | .xori16 .. | .not16 .. | .eqr16 .. | .eqi16 .. | .inc16 .. | .dec16 .. | .str16 .. | .stmr16 .. | .sti16 .. | .ld16 ..
  | .swp16 .. | .push16 .. | .pushi16 .. | .pop16 .. | .ldv16 .. | .ldvi16 .. => true
  | _ => false

/-! ### The reserved opcode bytes (R61) -/

/-- The ranges that R61 lists, first and last byte of each. -/
def reservedRanges : List (Nat × Nat) :=
  [(0x15, 0x15), (0x17, 0x17), (0x1D, 0x1D), (0x1F, 0x1F), (0x21, 0x21), (0x23, 0x3F), (0x41, 0x41), (0x43, 0x43),
    (0x45, 0x45), (0x47, 0x47), (0x49, 0x49), (0x4B, 0x4B), (0x4D, 0x4F), (0x51, 0x57), (0x59, 0x5F), (0x61, 0x67)] ++
  [(0x69, 0x7F), (0x81, 0x83), (0x85, 0x87), (0x89, 0x8B), (0x8D, 0x8F), (0x91, 0x97), (0x99, 0x9F), (0xA1, 0xA3),
    (0xA5, 0xA7), (0xA9, 0xAB), (0xAD, 0xAF), (0xB1, 0xBF), (0xC1, 0xC7), (0xC9, 0xCF), (0xD1, 0xD7), (0xD9, 0xDF)] ++
  [(0xE1, 0xE7), (0xE9, 0xEE), (0xF1, 0xF7), (0xF9, 0xFF)]

/-- The byte is in one of the ranges of R61. -/
def isReservedOpcode (op : Byte) : Bool := reservedRanges.any fun r => decide (r.1 ≤ op.toNat ∧ op.toNat ≤ r.2)

end Sys2Proof
end

