-- ==== Sys2Proof/Certificates/Slice0/Obligations.lean ====
section
/-! DEFINITION. The statements about the smol CORE model. Each formalises a rule of spec/ or follows from its sections; none is
about a program. -/
open Sys2Proof Sys2Proof.Machine

/-! ### Encoding -/

/-- "Encode and decode are inverses" (30_encoding.md R70, which the spec derives from R51 and R60). Both directions, with
whatever bytes follow the instruction. -/
def Obligations.EncodeAndDecodeAreInverses : Prop :=
  (∀ (i : Instr) (rest : List Byte), decode (encode i ++ rest) = .ok (i, rest)) ∧
    ∀ (bs : List Byte) (i : Instr) (rest : List Byte), decode bs = .ok (i, rest) → bs = encode i ++ rest

/-- 30_encoding.md section 8, opcode bytes: exactly the 195 listed bytes are reserved, whatever follows them, and
fetching one is ReservedEncoding at once, even when the stream ends there. That the error records the opcode byte as
the offending byte too is the model's reading (notes/assumptions/14.md). -/
def Obligations.ReservedOpcodesFault : Prop :=
  (∀ (op : Byte) (rest : List Byte), decode (op :: rest) = .error (.reservedOpcode op) ↔ isReservedOpcode op = true) ∧
    ((List.range 256).filter fun n => isReservedOpcode (BitVec.ofNat 8 n)).length = 195 ∧
    ∀ (s : State) (op : Byte) (rest : List Byte), s.status = .running → s.fetchBytes = op :: rest →
      isReservedOpcode op = true → step s = .fault (.reservedEncoding s.regs.ic op op)

/-- R53: a nonzero high nibble of the register byte of formats R, RI8, RI16 and AR is ReservedEncoding, whatever the low
nibble names. -/
def Obligations.ReservedNibbleFaults : Prop :=
  ∀ (s : State) (op b : Byte) (rest : List Byte), s.status = .running → highNibble b ≠ 0 →
    (∀ k, opcodeForm op = some (.r k) → s.fetchBytes = op :: b :: rest →
      step s = .fault (.reservedEncoding s.regs.ic op b)) ∧
    (∀ k x, opcodeForm op = some (.ri8 k) → s.fetchBytes = op :: b :: x :: rest →
      step s = .fault (.reservedEncoding s.regs.ic op b)) ∧
    (∀ k x y, opcodeForm op = some (.ri16 k) → s.fetchBytes = op :: b :: x :: y :: rest →
      step s = .fault (.reservedEncoding s.regs.ic op b)) ∧
    (∀ k x y, opcodeForm op = some (.ar k) → s.fetchBytes = op :: x :: y :: b :: rest →
      step s = .fault (.reservedEncoding s.regs.ic op b))

/-- R50: "Each instruction's length is a function of its opcode byte alone". What is left of the stream after an
instruction is shorter by its length, and two instructions with one opcode byte have one length. -/
def Obligations.LengthIsFixedByOpcode : Prop :=
  (∀ (bs rest : List Byte) (i : Instr), decode bs = .ok (i, rest) → bs.length = i.length + rest.length) ∧
    ∀ (op : Byte) (bs bs' rest rest' : List Byte) (i i' : Instr), decode (op :: bs) = .ok (i, rest) →
      decode (op :: bs') = .ok (i', rest') → i.length = i'.length

/-- R74: an instruction that needs more bytes than PROG has left is Truncated and nothing of it runs. -/
def Obligations.TruncatedInstructionFaults : Prop :=
  ∀ (s : State) (op : Byte) (rest : List Byte) (f : Form), s.status = .running → s.fetchBytes = op :: rest →
    opcodeForm op = some f → s.params.prog.length < s.regs.ic.toNat + f.length →
    step s = .fault (.truncated s.regs.ic f.length)

/-- R74, R78: `ic` is never past L after a fall-through; only a jump leads to IcOverrun. -/
def Obligations.OnlyJumpsOverrun : Prop :=
  ∀ (s : State) (x : Word), s.Inv → step s = .fault (.icOverrun x) →
    ∃ i rest, decode s.fetchBytes = .ok (i, rest) ∧ i.isJump = true

/-- R60: words written out from the encodings of the map, one or more for each family, decode to what they stand for. -/
def Obligations.SampleWordsDecode : Prop :=
  decode [0b00000000, 0b00010000] = .ok (.addr8 (.r8 .r0) (.r8 .r1), []) ∧
    decode [0b00001011, 0b00001100, 0b00000111, 0b00000000] = .ok (.andi16 (.r16 .fl) 7, []) ∧
    decode [0b01001010, 0b00000000, 0b10000000, 0b00001001] = .ok (.stmr16 0x8000 (.r16 .w0), []) ∧
    decode [0b01000110, 0b00000000, 0b00000001, 0b00011001] = .ok (.stm8 256 25, []) ∧
    decode [0b10001100, 0b00110100, 0b00010010] = .ok (.pushi16 0x1234, []) ∧
    decode [0b10110000] = .ok (.ulv, []) ∧
    decode [0b11101000, 0b00010000, 0b00000000] = .ok (.call 16, []) ∧
    decode [0b11101111] = .ok (.syscall, [])

/-- R14, R15: the sixteen selector codes name the sixteen registers, and the class of a selector is 8 up to 7. -/
def Obligations.SelectorsNameRegisters : Prop :=
  (List.finRange 16).map (fun n => Reg.ofSelector (BitVec.ofNat 4 n.val)) =
      [.r8 .r0, .r8 .r1, .r8 .r2, .r8 .r3, .r8 .r4, .r8 .r5, .r8 .r6, .r8 .r7, .r16 .vp, .r16 .w0, .r16 .w1, .r16 .ic,
        .r16 .fl, .r16 .cr, .r16 .sp, .r16 .zr] ∧
    (∀ r : Reg, Reg.ofSelector r.selector = r) ∧ ∀ n : BitVec 4, (Reg.ofSelector n).is8 = decide (n.toNat ≤ 7)

/-! ### The operand-field checks -/

/-- R54, R55: an instruction with a register field that fails raises the fault of the first such field in byte order, the
low nibble first, BadSelector for the wrong class, IcWrite for a destination `ic`; a well-formed one raises neither. -/
def Obligations.FieldChecksDecideFaults : Prop :=
  ∀ (i : Instr) (s : State),
    (∀ f, firstFieldFault s.regs.ic i.operandFields = some f → exec i s = .fault f) ∧
    (firstFieldFault s.regs.ic i.operandFields = none ↔ i.wellFormed = true) ∧
    (i.wellFormed = true → ∀ ic sel, exec i s ≠ .fault (.badSelector ic sel) ∧ exec i s ≠ .fault (.icWrite ic sel))

/-- R132, who raises what during execution: MemoryBounds only the seven instructions with a 2-byte access, at 65535;
HostError only syscall; Unimplemented only reti; the loop's own errors never. -/
def Obligations.ExecutionFaultsHaveTheirSources : Prop :=
  ∀ (i : Instr) (s : State) (f : Fault), exec i s = .fault f →
    match f with
    | .memoryBounds a n => i.hasWideAccess = true ∧ a = 65535 ∧ n = 2
    | .hostError _ => i = .syscall
    | .unimplemented ic op => i = .reti ∧ ic = s.regs.ic ∧ op = 0xF8
    | .badSelector ic _ => i.wellFormed = false ∧ ic = s.regs.ic
    | .icWrite ic sel => i.wellFormed = false ∧ ic = s.regs.ic ∧ sel = 11
    | .reservedEncoding .. => False
    | .truncated .. => False
    | .icOverrun _ => False

/-! ### The step -/

/-- R71, R72: when the bytes at `ic` decode to an instruction, a step from Running is exec of it followed by the loop's
check: CheckIC where the machine still runs, nothing where it has exited or stopped. -/
def Obligations.StepRunsDecodedInstruction : Prop :=
  ∀ (s : State) (i : Instr) (rest : List Byte), s.status = .running → decode s.fetchBytes = .ok (i, rest) →
    step s = afterExec (exec i s)

/-- The model's own placing of an instruction (notes/assumptions/11.md): the very next step runs it. -/
def Obligations.PlacedWordRunsNext : Prop :=
  ∀ (s : State) (nbits w : Nat) (i : Instr), s.regs.ic.toNat + 4 ≤ Config.maxProgram →
    decodeTableWord nbits w = some i →
    step (s.withFetchWord nbits w) = afterExec (exec i (s.withFetchWord nbits w)) ∧
      (s.withFetchWord nbits w).regs = s.regs ∧ (s.withFetchWord nbits w).mem = s.mem

/-- R73: CheckIC halts at L, faults above it, and goes on below it, changing nothing else; and every step that leaves the
machine Running leaves `ic` below L. -/
def Obligations.CheckIcDecidesStatus : Prop :=
  (∀ s : State,
    (s.regs.ic.toNat = s.params.prog.length → checkIC s = .next { s with status := .halted }) ∧
    (s.params.prog.length < s.regs.ic.toNat → checkIC s = .fault (.icOverrun s.regs.ic)) ∧
    (s.regs.ic.toNat < s.params.prog.length → checkIC s = .next s)) ∧
  ∀ s t : State, step s = .next t → t.status = .running → t.regs.ic.toNat < t.params.prog.length

/-- The invariant: canonical memory, a program of at most 65535 bytes, `ic` where the status says it is. Every step
keeps it. The clauses on PROG and `ic` are R147, R73, R83 and R137; that memory has a canonical form to keep is the
model's choice (notes/assumptions/2.md). -/
def Obligations.StepKeepsInvariant : Prop := ∀ s t : State, s.Inv → step s = .next t → t.Inv

/-- The invariant holds at reset and at the start of every run. The canonical form of memory is the model's choice
(notes/assumptions/2.md), and so is that `State.reset` has nothing loaded and is therefore Halted
(notes/assumptions/11.md). -/
def Obligations.InvariantHoldsAtStart : Prop :=
  State.reset.Inv ∧ ∀ (img : Image) (draw : ResetDraw) (t : State), start img draw = .next t → t.Inv

/-- R27, 93_implementation_defined.md section 3: no step is enabled from Halted, Exited or Fatal, and every step from
Running gives a next state or a fatal error. That the model answers a refusal there is its own choice
(notes/assumptions/9.md). -/
def Obligations.StepsExactlyFromRunning : Prop :=
  (∀ s : State, s.status ≠ .running → step s = .refused .noStepEnabled) ∧
    ∀ s : State, s.status = .running → (∃ t, step s = .next t) ∨ ∃ f, step s = .fault f

/-- R31, R47: no instruction and no step writes PROG or any other parameter of the run. -/
def Obligations.ProgramIsImmutable : Prop :=
  (∀ (i : Instr) (s t : State), exec i s = .next t → t.params = s.params) ∧
    ∀ s t : State, step s = .next t → t.params = s.params

/-- R133: a step that raises a fatal error leaves status Fatal with that error, from which nothing goes on. The registers
and memory it leaves are free values, about which nothing is said. `settle`, the state that a fatal error leaves, is the
model's form of R133 (notes/assumptions/8.md); that a step from it is the refusal noStepEnabled, and that settling again
changes nothing, is the model's choice (notes/assumptions/9.md). -/
def Obligations.FatalErrorsAreTerminal : Prop :=
  ∀ (s : State) (f : Fault), step s = .fault f →
    (settle s).status = .fatal f ∧ step (settle s) = .refused .noStepEnabled ∧ settle (settle s) = settle s ∧
      (settle s).params = s.params ∧ ¬(settle s).CleanEnd

/-- R77, R78: an instruction that is no jump leaves `ic` exactly its length further, without wrapping. -/
def Obligations.FallThroughAdvancesByLength : Prop :=
  ∀ (s t : State) (i : Instr) (rest : List Byte), s.Inv → s.status = .running → decode s.fetchBytes = .ok (i, rest) →
    i.isJump = false → step s = .next t → (∀ code, t.status ≠ .exited code) →
    t.regs.ic.toNat = s.regs.ic.toNat + i.length

/-! ### Registers and memory -/

/-- R24: under Storage `zr` is plain storage; under HardwiredZero it reads 0 and a write to it changes nothing. -/
def Obligations.ZeroRegisterFollowsMode : Prop :=
  ∀ (s : State) (v : Word),
    (s.params.zrMode = .storage → (s.write16 .zr v).read16 .zr = v) ∧
    (s.params.zrMode = .hardwiredZero → s.read16 .zr = 0 ∧ s.write16 .zr v = s) ∧
    (∀ imm : Word, s.params.zrMode = .hardwiredZero → exec (.sti16 (.r16 .zr) imm) s = .next (s.fell 4)) ∧
    ∀ mode : ZrMode, State.read16 { State.reset with params := { Params.reset with zrMode := mode } } .zr = 0

/-- R79, R80: a register that is written reads the written value and no other register changes; `zr` follows R24. -/
def Obligations.RegisterWritesAreRead : Prop :=
  (∀ (s : State) (g : Reg8) (v : Byte), (s.write8 g v).read (.r8 g) = .v8 v ∧ RegsKept [.r8 g] s (s.write8 g v)) ∧
    ∀ (s : State) (h : Reg16) (v : Word),
      Wrote16 h v.toNat s (s.write16 h v) ∧ RegsKept [.r16 h] s (s.write16 h v)

/-- The model's canonical form (notes/assumptions/2.md): two memories in it that read alike are equal, and a list of
cells in it describes itself. -/
def Obligations.CanonicalMemoryIsUnique : Prop :=
  (∀ m m' : Memory, Memory.wf m = true → Memory.wf m' = true → (∀ a, Memory.read m a = Memory.read m' a) → m = m') ∧
    ∀ m : Memory, Memory.wf m = true → Memory.ofCells m = m

/-! ### Family 00 -/

/-- R88, R90, R92, R94, R96 at width 8: the result, the advance, and that nothing else changes, flags included. -/
def Obligations.RegisterAluResults8 : Prop :=
  Computes8 .addr8 (fun x y => (x + y) % 256) ∧ Computes8 .subr8 (fun x y => (x + 256 - y) % 256) ∧
    Computes8 .andr8 (fun x y => x &&& y) ∧ Computes8 .orr8 (fun x y => x ||| y) ∧ Computes8 .xorr8 (fun x y => x ^^^ y)

/-- R88, R90, R92, R94, R96 at width 16, for every destination but `ic`, `zr` by its mode. -/
def Obligations.RegisterAluResults16 : Prop :=
  Computes16 .addr16 (fun x y => (x + y) % 65536) ∧ Computes16 .subr16 (fun x y => (x + 65536 - y) % 65536) ∧
    Computes16 .andr16 (fun x y => x &&& y) ∧ Computes16 .orr16 (fun x y => x ||| y) ∧
    Computes16 .xorr16 (fun x y => x ^^^ y)

/-- R89, R91, R93, R95, R97 at width 8. -/
def Obligations.ImmediateAluResults8 : Prop :=
  ComputesImm8 .addi8 (fun x y => (x + y) % 256) ∧ ComputesImm8 .subi8 (fun x y => (x + 256 - y) % 256) ∧
    ComputesImm8 .andi8 (fun x y => x &&& y) ∧ ComputesImm8 .ori8 (fun x y => x ||| y) ∧
    ComputesImm8 .xori8 (fun x y => x ^^^ y)

/-- R89, R91, R93, R95, R97 at width 16, for every destination but `ic`, `zr` by its mode. -/
def Obligations.ImmediateAluResults16 : Prop :=
  ComputesImm16 .addi16 (fun x y => (x + y) % 65536) ∧ ComputesImm16 .subi16 (fun x y => (x + 65536 - y) % 65536) ∧
    ComputesImm16 .andi16 (fun x y => x &&& y) ∧ ComputesImm16 .ori16 (fun x y => x ||| y) ∧
    ComputesImm16 .xori16 (fun x y => x ^^^ y)

/-- R98, R101, R102 at both widths. -/
def Obligations.UnaryAluResults : Prop :=
  ComputesUnary8 .not8 (fun x => 255 - x) ∧ ComputesUnary8 .inc8 (fun x => (x + 1) % 256) ∧
    ComputesUnary8 .dec8 (fun x => (x + 255) % 256) ∧ ComputesUnary16 .not16 (fun x => 65535 - x) ∧
    ComputesUnary16 .inc16 (fun x => (x + 1) % 65536) ∧ ComputesUnary16 .dec16 (fun x => (x + 65535) % 65536)

/-- R99, R100: the comparison is unsigned, all of `fl` is written, and neither operand is. -/
def Obligations.EqualitySetsFlags : Prop :=
  (∀ (s : State) (d e : Reg8), Completes (.eqr8 (.r8 d) (.r8 e)) s
    (Compared 2 (s.read8 d).toNat (s.read8 e).toNat s)) ∧
  (∀ (s : State) (d e : Reg16), Completes (.eqr16 (.r16 d) (.r16 e)) s
    (Compared 2 (s.read16 d).toNat (s.read16 e).toNat s)) ∧
  (∀ (s : State) (d : Reg8) (imm : Byte), Completes (.eqi8 (.r8 d) imm) s
    (Compared 3 (s.read8 d).toNat imm.toNat s)) ∧
  ∀ (s : State) (d : Reg16) (imm : Word), Completes (.eqi16 (.r16 d) imm) s
    (Compared 4 (s.read16 d).toNat imm.toNat s)

/-- R20 and the flags idempotence of 95_test_vectors.md section 2.7: after an equality `fl` is 1, 2 or 4, and running it
again with unchanged operands leaves `fl` equal. The operands `fl` and `ic`, which the first run changes, are left out
of the second part, as the source's property says of `fl`. -/
def Obligations.EqualityIsIdempotent : Prop :=
  (∀ (i : Instr) (s t : State), i.isEquality = true → exec i s = .next t →
    t.regs.fl = 1 ∨ t.regs.fl = 2 ∨ t.regs.fl = 4) ∧
  ∀ (i : Instr) (s t u : State), i.isEquality = true → exec i s = .next t → exec i t = .next u →
    (∀ f ∈ i.operandFields, f.reg ≠ .r16 .fl ∧ f.reg ≠ .r16 .ic) → u.regs.fl = t.regs.fl

/-! ### Whole-machine frames -/

/-- R25: an instruction changes only the registers that the table lists for it; syscall also the call-number register. -/
def Obligations.RegistersChangeOnlyAsListed : Prop :=
  ∀ (i : Instr) (s t : State), exec i s = .next t → ∀ r, r ∉ i.writes → (i = .syscall → r ≠ s.params.nrSel.reg) →
    t.read r = s.read r

/-- 41_alu.md R86 (which the spec derives: "the source names equality as the only operation that sets flags"), for every
instruction: outside the equalities `fl` changes only as a register destination or as the host's result register. -/
def Obligations.FlagsChangeOnlyByEquality : Prop :=
  ∀ (i : Instr) (s t : State), exec i s = .next t → i.isEquality = false →
    (∀ f ∈ i.operandFields, f.dest = true → f.reg ≠ .r16 .fl) →
    (i = .syscall → s.params.nrSel.reg ≠ .r16 .fl) → t.regs.fl = s.regs.fl

/-- R18: a width-8 instruction changes no 16-bit register but `ic`, `fl` by an equality, `sp` or `vp` by the stack and
variable instructions; a width-16 instruction changes no 8-bit register. -/
def Obligations.WidthsAreIsolated : Prop :=
  (∀ (i : Instr) (s t : State) (h : Reg16), i.isWidth8 = true → exec i s = .next t → h ≠ .ic →
    (h = .fl → i.isEquality = false) → (h = .sp → i.movesSp = false) → (h = .vp → i.setsVp = false) →
    t.read16 h = s.read16 h) ∧
  ∀ (i : Instr) (s t : State) (g : Reg8), i.isWidth16 = true → exec i s = .next t → t.read8 g = s.read8 g

/-- R43: an instruction that is not listed as a writer leaves every byte of memory as it was. -/
def Obligations.OnlyListedInstructionsStore : Prop :=
  ∀ (i : Instr) (s t : State), exec i s = .next t → i.storesToMemory = false → i ≠ .syscall → MemKept s t

/-- R28, R135: no instruction but syscall changes the status or the parameters of the run; nor does one touch the
host's scripted answers and the count of free values, two fields of the model's own (notes/assumptions/5.md
and 19.md). -/
def Obligations.OnlySyscallLeavesTheCore : Prop :=
  ∀ (i : Instr) (s t : State), exec i s = .next t → i ≠ .syscall → RestKept s t

/-! ### Family 01 -/

/-- R105, R106: a register takes the second operand's old value or the immediate; nothing else changes. -/
def Obligations.RegisterStores : Prop :=
  (∀ (s : State) (d e : Reg8), Completes (.str8 (.r8 d) (.r8 e)) s fun t =>
    t.read8 d = s.read8 e ∧ FellThrough 2 [.r8 d] s t ∧ MemKept s t) ∧
  (∀ (s : State) (d e : Reg16), d ≠ .ic → Completes (.str16 (.r16 d) (.r16 e)) s fun t =>
    Wrote16 d (s.read16 e).toNat s t ∧ FellThrough 2 [.r16 d] s t ∧ MemKept s t) ∧
  (∀ (s : State) (d : Reg8) (imm : Byte), Completes (.sti8 (.r8 d) imm) s fun t =>
    t.read8 d = imm ∧ FellThrough 3 [.r8 d] s t ∧ MemKept s t) ∧
  ∀ (s : State) (d : Reg16) (imm : Word), d ≠ .ic → Completes (.sti16 (.r16 d) imm) s fun t =>
    Wrote16 d imm.toNat s t ∧ FellThrough 4 [.r16 d] s t ∧ MemKept s t

/-- R107, R108 at width 8: the byte at the absolute address, 65535 included; every other byte is unchanged. -/
def Obligations.ByteStores : Prop :=
  (∀ (s : State) (addr : Word) (e : Reg8), Completes (.stmr8 addr (.r8 e)) s fun t =>
    t.byteAt addr.toNat = s.read8 e ∧ MemKeptOutside addr.toNat 1 s t ∧ FellThrough 4 [] s t) ∧
  ∀ (s : State) (addr : Word) (imm : Byte), Completes (.stm8 addr imm) s fun t =>
    t.byteAt addr.toNat = imm ∧ MemKeptOutside addr.toNat 1 s t ∧ FellThrough 4 [] s t

/-- R107 at width 16: low byte at the address, high byte above it, MemoryBounds at 65535. -/
def Obligations.WordStores : Prop :=
  ∀ (s : State) (addr : Word) (e : Reg16),
    (addr ≠ 65535 → Completes (.stmr16 addr (.r16 e)) s fun t =>
      Holds16 addr.toNat (s.read16 e) t ∧ MemKeptOutside addr.toNat 2 s t ∧ FellThrough 4 [] s t) ∧
    (addr = 65535 → exec (.stmr16 addr (.r16 e)) s = .fault (.memoryBounds 65535 2))

/-- R109: the bytes at the absolute address, little-endian at width 16, MemoryBounds at 65535. -/
def Obligations.Loads : Prop :=
  (∀ (s : State) (d : Reg8) (addr : Word), Completes (.ld8 (.r8 d) addr) s fun t =>
    t.read8 d = s.byteAt addr.toNat ∧ FellThrough 4 [.r8 d] s t ∧ MemKept s t) ∧
  ∀ (s : State) (d : Reg16) (addr : Word), d ≠ .ic →
    (addr ≠ 65535 → Completes (.ld16 (.r16 d) addr) s fun t =>
      Wrote16 d ((s.byteAt addr.toNat).toNat + 256 * (s.byteAt (addr.toNat + 1)).toNat) s t ∧
        FellThrough 4 [.r16 d] s t ∧ MemKept s t) ∧
    (addr = 65535 → exec (.ld16 (.r16 d) addr) s = .fault (.memoryBounds 65535 2))

/-- R110: the two registers exchange their old values; memory is not touched. -/
def Obligations.Swaps : Prop :=
  (∀ (s : State) (d e : Reg8), Completes (.swp8 (.r8 d) (.r8 e)) s fun t =>
    t.read8 d = s.read8 e ∧ t.read8 e = s.read8 d ∧ FellThrough 2 [.r8 d, .r8 e] s t ∧ MemKept s t) ∧
  ∀ (s : State) (d e : Reg16), d ≠ .ic → e ≠ .ic → Completes (.swp16 (.r16 d) (.r16 e)) s fun t =>
    Wrote16 d (s.read16 e).toNat s t ∧ Wrote16 e (s.read16 d).toNat s t ∧
      FellThrough 2 [.r16 d, .r16 e] s t ∧ MemKept s t

/-! ### Family 10 -/

/-- R113, R114 at width 8: the byte at `sp`, then `sp` one further, wrapping. -/
def Obligations.BytePushes : Prop :=
  (∀ (s : State) (e : Reg8), Completes (.push8 (.r8 e)) s fun t =>
    t.byteAt s.regs.sp.toNat = s.read8 e ∧ MemKeptOutside s.regs.sp.toNat 1 s t ∧
      t.regs.sp.toNat = (s.regs.sp.toNat + 1) % 65536 ∧ FellThrough 2 [.r16 .sp] s t) ∧
  ∀ (s : State) (imm : Byte), Completes (.pushi8 imm) s fun t =>
    t.byteAt s.regs.sp.toNat = imm ∧ MemKeptOutside s.regs.sp.toNat 1 s t ∧
      t.regs.sp.toNat = (s.regs.sp.toNat + 1) % 65536 ∧ FellThrough 2 [.r16 .sp] s t

/-- R113, R114 at width 16: both bytes at `sp`, then `sp` two further; MemoryBounds when `sp` is 65535. `push.16 sp`
pushes the old `sp`. -/
def Obligations.WordPushes : Prop :=
  (∀ (s : State) (e : Reg16),
    (s.regs.sp ≠ 65535 → Completes (.push16 (.r16 e)) s fun t =>
      Holds16 s.regs.sp.toNat (s.read16 e) t ∧ MemKeptOutside s.regs.sp.toNat 2 s t ∧
        t.regs.sp.toNat = (s.regs.sp.toNat + 2) % 65536 ∧ FellThrough 2 [.r16 .sp] s t) ∧
    (s.regs.sp = 65535 → exec (.push16 (.r16 e)) s = .fault (.memoryBounds 65535 2))) ∧
  ∀ (s : State) (imm : Word),
    (s.regs.sp ≠ 65535 → Completes (.pushi16 imm) s fun t =>
      Holds16 s.regs.sp.toNat imm t ∧ MemKeptOutside s.regs.sp.toNat 2 s t ∧
        t.regs.sp.toNat = (s.regs.sp.toNat + 2) % 65536 ∧ FellThrough 3 [.r16 .sp] s t) ∧
    (s.regs.sp = 65535 → exec (.pushi16 imm) s = .fault (.memoryBounds 65535 2))

/-- R115 at width 8: `sp` one back, wrapping, then the byte there. -/
def Obligations.BytePops : Prop :=
  ∀ (s : State) (d : Reg8), Completes (.pop8 (.r8 d)) s fun t =>
    t.regs.sp.toNat = (s.regs.sp.toNat + 65535) % 65536 ∧ t.read8 d = s.byteAt t.regs.sp.toNat ∧
      FellThrough 2 [.r8 d, .r16 .sp] s t ∧ MemKept s t

/-- R115 at width 16: `sp` two back, then the two bytes there; `pop.16 sp` ends with the popped value; MemoryBounds when
the stepped-back `sp` is 65535. -/
def Obligations.WordPops : Prop :=
  ∀ (s : State) (d : Reg16), d ≠ .ic →
    (s.regs.sp ≠ 1 → Completes (.pop16 (.r16 d)) s fun t =>
      Wrote16 d ((s.byteAt ((s.regs.sp.toNat + 65534) % 65536)).toNat +
        256 * (s.byteAt ((s.regs.sp.toNat + 65534) % 65536 + 1)).toNat) s t ∧
      (d ≠ .sp → t.regs.sp.toNat = (s.regs.sp.toNat + 65534) % 65536) ∧
      FellThrough 2 [.r16 d, .r16 .sp] s t ∧ MemKept s t) ∧
    (s.regs.sp = 1 → exec (.pop16 (.r16 d)) s = .fault (.memoryBounds 65535 2))

/-- R41, R113, R115: a 16-bit push followed by a 16-bit pop gives the value back and restores `sp`; followed by 8-bit pops
it gives the high byte first, then the low byte. -/
def Obligations.PopsUndoPushes : Prop :=
  (∀ (s t : State) (e d : Reg16), d ≠ .ic → d ≠ .sp → exec (.push16 (.r16 e)) s = .next t →
    Completes (.pop16 (.r16 d)) t fun u => Wrote16 d (s.read16 e).toNat s u ∧ u.regs.sp = s.regs.sp) ∧
  ∀ (s t : State) (e : Reg16) (g k : Reg8), g ≠ k → exec (.push16 (.r16 e)) s = .next t →
    Completes (.pop8 (.r8 g)) t fun u => Completes (.pop8 (.r8 k)) u fun v =>
      (v.read8 g).toNat = (s.read16 e).toNat / 256 ∧ (v.read8 k).toNat = (s.read16 e).toNat % 256 ∧
        v.regs.sp = s.regs.sp

/-- R116, R117, R118: `vp` becomes 32768 plus the zero-extended offset, wrapping, or 32768. -/
def Obligations.VariablePointerLoads : Prop :=
  (∀ (s : State) (e : Reg8), Completes (.ldv8 (.r8 e)) s fun t =>
    t.regs.vp.toNat = 32768 + (s.read8 e).toNat ∧ FellThrough 2 [.r16 .vp] s t ∧ MemKept s t) ∧
  (∀ (s : State) (e : Reg16), Completes (.ldv16 (.r16 e)) s fun t =>
    t.regs.vp.toNat = (32768 + (s.read16 e).toNat) % 65536 ∧ FellThrough 2 [.r16 .vp] s t ∧ MemKept s t) ∧
  (∀ (s : State) (imm : Byte), Completes (.ldvi8 imm) s fun t =>
    t.regs.vp.toNat = 32768 + imm.toNat ∧ FellThrough 2 [.r16 .vp] s t ∧ MemKept s t) ∧
  (∀ (s : State) (imm : Word), Completes (.ldvi16 imm) s fun t =>
    t.regs.vp.toNat = (32768 + imm.toNat) % 65536 ∧ FellThrough 3 [.r16 .vp] s t ∧ MemKept s t) ∧
  ∀ s : State, Completes .ulv s fun t => t.regs.vp.toNat = 32768 ∧ FellThrough 1 [.r16 .vp] s t ∧ MemKept s t

/-! ### Family 11 -/

/-- R119, R122 to R126: each branch sets `ic` to its target or falls 3 bytes through, by its own bit of `fl` alone, and
changes nothing else. -/
def Obligations.BranchesFollowTheirFlag : Prop :=
  ∀ (s : State) (target : Word),
    (Completes (.jmp target) s fun t =>
      t.regs.ic = target ∧ RegsKept [.r16 .ic] s t ∧ RestKept s t ∧ MemKept s t) ∧
    (Completes (.be target) s fun t =>
      t.regs.ic = (if s.regs.fl.toNat % 2 = 1 then target else s.regs.ic + 3) ∧
        RegsKept [.r16 .ic] s t ∧ RestKept s t ∧ MemKept s t) ∧
    (Completes (.bne target) s fun t =>
      t.regs.ic = (if s.regs.fl.toNat % 2 = 0 then target else s.regs.ic + 3) ∧
        RegsKept [.r16 .ic] s t ∧ RestKept s t ∧ MemKept s t) ∧
    (Completes (.bg target) s fun t =>
      t.regs.ic = (if s.regs.fl.toNat / 2 % 2 = 1 then target else s.regs.ic + 3) ∧
        RegsKept [.r16 .ic] s t ∧ RestKept s t ∧ MemKept s t) ∧
    Completes (.bl target) s fun t =>
      t.regs.ic = (if s.regs.fl.toNat / 4 % 2 = 1 then target else s.regs.ic + 3) ∧
        RegsKept [.r16 .ic] s t ∧ RestKept s t ∧ MemKept s t

/-- R120: the target is not checked by the jump; the loop's check then halts at L and faults above it. -/
def Obligations.JumpTargetsAreCheckedByTheLoop : Prop :=
  ∀ (s : State) (target : Word) (rest : List Byte), s.status = .running →
    s.fetchBytes = encode (.jmp target) ++ rest →
    (target.toNat < s.params.prog.length → Steps s fun t =>
      t.regs.ic = target ∧ t.status = .running ∧ RegsKept [.r16 .ic] s t ∧ MemKept s t) ∧
    (target.toNat = s.params.prog.length → Steps s fun t =>
      t.regs.ic = target ∧ t.CleanEnd ∧ RegsKept [.r16 .ic] s t ∧ MemKept s t) ∧
    (s.params.prog.length < target.toNat → step s = .fault (.icOverrun target))

/-- R127: call stores `ic + 3` at `sp`, moves `sp` two further and jumps; MemoryBounds when `sp` is 65535. -/
def Obligations.CallPushesReturnAddress : Prop :=
  ∀ (s : State) (target : Word),
    (s.regs.sp ≠ 65535 → Completes (.call target) s fun t =>
      Holds16 s.regs.sp.toNat (s.regs.ic + 3) t ∧ MemKeptOutside s.regs.sp.toNat 2 s t ∧
        t.regs.sp.toNat = (s.regs.sp.toNat + 2) % 65536 ∧ t.regs.ic = target ∧
        RegsKept [.r16 .ic, .r16 .sp] s t ∧ RestKept s t) ∧
    (s.regs.sp = 65535 → exec (.call target) s = .fault (.memoryBounds 65535 2))

/-- R128: ret moves `sp` two back and jumps to the two bytes there; MemoryBounds when the stepped-back `sp` is 65535. -/
def Obligations.RetPopsTarget : Prop :=
  ∀ s : State,
    (s.regs.sp ≠ 1 → Completes .ret s fun t =>
      t.regs.sp.toNat = (s.regs.sp.toNat + 65534) % 65536 ∧
        t.regs.ic.toNat = (s.byteAt t.regs.sp.toNat).toNat + 256 * (s.byteAt (t.regs.sp.toNat + 1)).toNat ∧
        RegsKept [.r16 .ic, .r16 .sp] s t ∧ RestKept s t ∧ MemKept s t) ∧
    (s.regs.sp = 1 → exec .ret s = .fault (.memoryBounds 65535 2))

/-- R127, R128: a subroutine that keeps `sp` and its return slot returns to the byte after the call, with `sp` as it was
before the call. -/
def Obligations.RetReturnsPastCall : Prop :=
  ∀ (s t u : State) (target : Word), exec (.call target) s = .next t → u.regs.sp = t.regs.sp →
    u.byteAt s.regs.sp.toNat = t.byteAt s.regs.sp.toNat →
    u.byteAt (s.regs.sp.toNat + 1) = t.byteAt (s.regs.sp.toNat + 1) →
    Completes .ret u fun v => v.regs.ic = s.regs.ic + 3 ∧ v.regs.sp = s.regs.sp

/-- R129, R136: on Continue the call-number register takes the result, memory becomes mem', `ic` is 1 further, and
nothing else changes. The model's choices in it: that answers come from a script, which is used up
(notes/assumptions/5.md and 19.md); that the value is a Word, of which a class-8 register takes the low 8 bits
(notes/assumptions/6.md); that mem' is a list of cells brought into the canonical form (notes/assumptions/7.md
and 2.md). -/
def Obligations.SyscallContinues : Prop :=
  ∀ (s : State) (v : Word) (mem : List Host.Cell) (rest : List HostAnswer), s.hostScript = .cont v mem :: rest →
    Completes .syscall s fun t =>
      (∀ g, s.params.nrSel.reg = .r8 g → (t.read8 g).toNat = v.toNat % 256) ∧
      (∀ h, s.params.nrSel.reg = .r16 h → Wrote16 h v.toNat s t) ∧
      (Memory.wf mem = true → t.mem = mem) ∧ t.mem = Memory.ofCells mem ∧
      t.regs.ic = s.regs.ic + 1 ∧ RegsKept [.r16 .ic, s.params.nrSel.reg] s t ∧
      t.hostScript = rest ∧ t.status = s.status ∧ t.params = s.params ∧ t.draws = s.draws

/-- R137, R136: a step whose syscall is answered Exit ends Exited with `ic` not advanced and no register or byte of
memory changed; one answered Error is the fatal error HostError. The model's choices in
it: that answers come from a script (notes/assumptions/5.md), that a step after the end is refused
(notes/assumptions/9.md), that what Exit and Error report are numbers (notes/assumptions/21.md). -/
def Obligations.SyscallExitAndErrorStop : Prop :=
  ∀ (s : State) (bytes : List Byte) (rest : List HostAnswer), s.status = .running → s.fetchBytes = 0xEF :: bytes →
    (∀ code, s.hostScript = .exit code :: rest → Steps s fun t =>
      t.status = .exited code ∧ t.regs = s.regs ∧ t.mem = s.mem ∧ step t = .refused .noStepEnabled) ∧
    ∀ info, s.hostScript = .error info :: rest → step s = .fault (.hostError info)

/-- R136, R129: the open HOST is asked once, with the call number, the registers and memory, and each of its three
answers has its effect and changes nothing else. The model's choices in it: that HOST is asked only when no scripted
answer is left, and with the count of free values drawn, which then rises by one (notes/assumptions/5.md and 19.md);
that a class-8 register takes the value's low 8 bits (notes/assumptions/6.md); that mem' is a list of cells brought
into the canonical form (notes/assumptions/7.md and 2.md); that HOST is shown the registers as they read, `regView`
(notes/assumptions/22.md); that what Exit and Error report are numbers (notes/assumptions/21.md). -/
def Obligations.UnscriptedSyscallAsksHost : Prop :=
  ∀ s : State, s.hostScript = [] →
    match Config.host s.draws (s.read s.params.nrSel.reg) s.regView s.mem with
    | .cont v mem => Completes .syscall s fun t =>
        (∀ g, s.params.nrSel.reg = .r8 g → (t.read8 g).toNat = v.toNat % 256) ∧
        (∀ h, s.params.nrSel.reg = .r16 h → Wrote16 h v.toNat s t) ∧
        (Memory.wf mem = true → t.mem = mem) ∧ t.mem = Memory.ofCells mem ∧
        t.regs.ic = s.regs.ic + 1 ∧ RegsKept [.r16 .ic, s.params.nrSel.reg] s t ∧
        t.hostScript = [] ∧ t.status = s.status ∧ t.params = s.params ∧ t.draws = s.draws + 1
    | .exit code => Completes .syscall s fun t =>
        t.status = .exited code ∧ t.regs = s.regs ∧ t.mem = s.mem ∧ t.params = s.params ∧ t.hostScript = [] ∧
          t.draws = s.draws + 1
    | .error info => exec .syscall s = .fault (.hostError info)

/-- R130, R62: reti raises Unimplemented in every state, and so does the step that meets its opcode. -/
def Obligations.RetiIsUnimplemented : Prop :=
  (∀ s : State, exec .reti s = .fault (.unimplemented s.regs.ic 0xF8)) ∧
    ∀ (s : State) (rest : List Byte), s.status = .running → s.fetchBytes = 0xF8 :: rest →
      step s = .fault (.unimplemented s.regs.ic 0xF8)

/-! ### Reset and loading -/

/-- R29: the values the spec states for reset. The other registers of `State.reset` are the model's choice
(notes/assumptions/1.md) and nothing is said of them. That nothing is loaded, so that CheckIC has halted the machine,
is the model's choice too (notes/assumptions/11.md). -/
def Obligations.ResetValues : Prop :=
  State.reset.regs.vp = 32768 ∧ State.reset.regs.sp = 0 ∧ State.reset.regs.zr = 0 ∧ State.reset.params.prog = [] ∧
    State.reset.status = .halted

/-- R147: how a run starts, for every image and every reset draw: refused when PROG is too long or the descriptor does
not fit; else the stated reset values, the drawn rest, `ic` at ENTRY, and the status that CheckIC gives. Which descriptors do not fit,
beyond one that goes past 65535, is the model's reading (notes/assumptions/12.md). -/
def Obligations.StartFollowsResetSequence : Prop :=
  ∀ (img : Image) (draw : ResetDraw),
    (65535 < img.prog.length → start img draw = .refused .programTooLong) ∧
    (img.prog.length ≤ 65535 → descriptorOk 0 img.descriptor = false → start img draw = .refused .descriptorRefused) ∧
    (img.prog.length ≤ 65535 → descriptorOk 0 img.descriptor = true →
      (img.prog.length < img.entry.toNat → start img draw = .fault (.icOverrun img.entry)) ∧
      (img.entry.toNat ≤ img.prog.length → ∃ t, start img draw = .next t ∧
        t.status = (if img.entry.toNat = img.prog.length then .halted else .running) ∧
        t.regs.ic = img.entry ∧ t.regs.vp = 32768 ∧ t.regs.sp = 0 ∧ t.regs.zr = 0 ∧
        (∀ g, t.regs.get8 g = draw.regs.get8 g) ∧
        (∀ h, h = .w0 ∨ h = .w1 ∨ h = .fl ∨ h = .cr → t.regs.get16 h = draw.regs.get16 h) ∧
        t.params = { prog := img.prog, zrMode := img.zrMode, nrSel := img.nrSel }))

/-- R148: after the start every byte of a declared variable holds its initializer byte or 0, and every other byte holds
the reset draw. That the draw's memory is a list of cells brought into the canonical form is the model's choice
(notes/assumptions/2.md and 7.md). -/
def Obligations.LoaderPlacesVariables : Prop :=
  ∀ (img : Image) (draw : ResetDraw) (t : State), start img draw = .next t →
    (∀ v ∈ img.descriptor, ∀ k, k < v.size →
      (∀ bs, v.init = some bs → bs[k]? = some (t.byteAt (32768 + v.offset + k))) ∧
      (v.init = none → t.byteAt (32768 + v.offset + k) = 0)) ∧
    ∀ a, (∀ v ∈ img.descriptor, ¬(32768 + v.offset ≤ a ∧ a < 32768 + v.offset + v.size)) →
      t.byteAt a = Memory.read (Memory.ofCells draw.mem) a
end

