-- ==== Sys2Proof/Laws/Alu.lean ====
section
/-! SUPPORT. The results of the ALU and of the comparison as numbers (spec/41_alu.md R85, R99). -/
namespace Sys2Proof.Machine

theorem addW_toNat (n : Nat) (x y : BitVec n) : (addW n x y).toNat = (x.toNat + y.toNat) % 2 ^ n := by
  simp [addW]

theorem subW_toNat (n : Nat) (x y : BitVec n) : (subW n x y).toNat = (x.toNat + (2 ^ n - y.toNat)) % 2 ^ n := by
  simp [subW]

theorem andW_toNat (n : Nat) (x y : BitVec n) : (andW n x y).toNat = x.toNat &&& y.toNat := by
  simp [andW]

theorem orW_toNat (n : Nat) (x y : BitVec n) : (orW n x y).toNat = x.toNat ||| y.toNat := by
  simp [orW]

theorem xorW_toNat (n : Nat) (x y : BitVec n) : (xorW n x y).toNat = x.toNat ^^^ y.toNat := by
  simp [xorW]

theorem notW_toNat (n : Nat) (x : BitVec n) : (notW n x).toNat = 2 ^ n - 1 - x.toNat := by
  have := Nat.two_pow_pos n
  simp only [notW, BitVec.toNat_ofNat]
  exact Nat.mod_eq_of_lt (by omega)

theorem incW_toNat (n : Nat) (x : BitVec n) : (incW n x).toNat = (x.toNat + 1) % 2 ^ n := by
  simp [incW]

theorem decW_toNat (n : Nat) (x : BitVec n) : (decW n x).toNat = (x.toNat + (2 ^ n - 1)) % 2 ^ n := by
  simp [decW]

/-- The complement of R85 is the complement of every bit. -/
theorem notW_eq_not (n : Nat) (x : BitVec n) : notW n x = ~~~x := by
  apply BitVec.eq_of_toNat_eq
  rw [notW_toNat, BitVec.toNat_not]

/-- A comparison leaves 1, 2 or 4 (R99). -/
theorem compareFlags_toNat (n : Nat) (x y : BitVec n) :
    (compareFlags n x y).toNat =
      if x.toNat = y.toNat then 1 else if x.toNat > y.toNat then 2 else 4 := by
  simp only [compareFlags, ← BitVec.toNat_inj]
  rcases Nat.lt_trichotomy x.toNat y.toNat with h | h | h
  · simp [h, Nat.ne_of_lt h, Nat.lt_asymm h, flagL]
  · simp [h, flagE]
  · simp [h, Nat.ne_of_gt h, Nat.lt_asymm h, flagG]

end Sys2Proof.Machine
end

