-- ==== Sys2Proof/Laws/Decode.lean ====
section
/-! SUPPORT. The small laws of the decoder's and the encoder's parts: selectors, nibbles, byte order, and how much each operand
format takes. -/
namespace Sys2Proof

open Sys2Proof.Machine

@[simp] theorem Reg.ofSelector_selector (r : Reg) : Reg.ofSelector r.selector = r := by
  cases r with
  | r8 g => cases g <;> rfl
  | r16 h => cases h <;> rfl

@[simp] theorem Reg.selector_ofSelector (n : BitVec 4) : (Reg.ofSelector n).selector = n := by
  revert n; decide

@[simp] theorem lowNibble_pack (a b : BitVec 4) : lowNibble (packNibbles a b) = a := by
  revert a b; decide

@[simp] theorem highNibble_pack (a b : BitVec 4) : highNibble (packNibbles a b) = b := by
  revert a b; decide

theorem pack_nibbles (b : Byte) : packNibbles (lowNibble b) (highNibble b) = b := by
  revert b; decide

theorem loByte_toNat (h : Word) : (loByte h).toNat = h.toNat % 256 := by
  simp [loByte]

theorem hiByte_toNat (h : Word) : (hiByte h).toNat = h.toNat / 256 := by
  have := h.isLt
  simp [hiByte, Nat.shiftRight_eq_div_pow]
  omega

theorem le16_toNat (x y : Byte) : (le16 x y).toNat = x.toNat + 256 * y.toNat := by
  have := x.isLt
  have := y.isLt
  simp [le16]
  omega

/-- A 16-bit value is put together again from its two bytes (R40, R41). -/
@[simp] theorem le16_bytes (h : Word) : le16 (loByte h) (hiByte h) = h := by
  apply BitVec.eq_of_toNat_eq
  rw [le16_toNat, loByte_toNat, hiByte_toNat]
  omega

@[simp] theorem loByte_le16 (x y : Byte) : loByte (le16 x y) = x := by
  apply BitVec.eq_of_toNat_eq
  have := x.isLt
  rw [loByte_toNat, le16_toNat]
  omega

@[simp] theorem hiByte_le16 (x y : Byte) : hiByte (le16 x y) = y := by
  apply BitVec.eq_of_toNat_eq
  have := x.isLt
  rw [hiByte_toNat, le16_toNat]
  omega

/-- A single-register byte decodes only when its high nibble is 0, and then to its low nibble's register (R53). -/
theorem singleReg_ok {op b : Byte} {k : Reg → Instr} {rest tail : List Byte} {i : Instr}
    (h : singleReg op b k rest = .ok (i, tail)) :
    highNibble b = 0 ∧ i = k (Reg.ofSelector (lowNibble b)) ∧ tail = rest := by
  unfold singleReg at h
  split at h
  · injection h with h; injection h with h1 h2
    exact ⟨by assumption, h1.symm, h2.symm⟩
  · cases h

/-- What a format reads takes exactly its length of bytes, the opcode byte included (R51). -/
theorem Form.parse_length {op : Byte} {f : Form} {rest tail : List Byte} {i : Instr}
    (h : f.parse op rest = .ok (i, tail)) : 1 + rest.length = f.length + tail.length := by
  unfold Form.parse at h
  split at h <;> first
    | (obtain ⟨-, -, rfl⟩ := singleReg_ok h; simp only [Form.length, List.length_cons]; omega)
    | (injection h with h; injection h with h1 h2; subst h2; rfl)
    | (injection h with h; injection h with h1 h2; subst h2; simp only [Form.length, List.length_cons]; omega)
    | cases h

/-- Operand bytes fail to parse only by being too few or by a reserved nibble (R53, R74). -/
theorem Form.parse_error {op : Byte} {f : Form} {rest : List Byte} {e : DecodeFault}
    (h : f.parse op rest = .error e) : e = .truncated f.length ∨ ∃ bad, e = .reservedNibble op bad := by
  have single : ∀ {b k tl}, singleReg op b k tl = .error e → ∃ bad, e = .reservedNibble op bad := by
    intro b k tl hs
    unfold singleReg at hs
    split at hs
    · cases hs
    · injection hs with hs; exact ⟨b, hs.symm⟩
  unfold Form.parse at h
  split at h <;> first
    | exact .inr (single h)
    | (injection h with h; exact .inl h.symm)
    | cases h

/-- A register byte whose high nibble is 0 is made from its low nibble (R51). -/
theorem pack_lowNibble {b : Byte} : highNibble b = 0 → packNibbles (lowNibble b) 0 = b := by
  revert b; decide

/-- Bytes that decode begin with an opcode byte of the map (R60, R61). -/
theorem decode_ok {bs tail : List Byte} {i : Instr} (h : decode bs = .ok (i, tail)) :
    ∃ op rest f, bs = op :: rest ∧ opcodeForm op = some f ∧ f.parse op rest = .ok (i, tail) := by
  unfold decode at h
  split at h
  · cases h
  · split at h
    · exact ⟨_, _, _, rfl, by assumption, h⟩
    · cases h

end Sys2Proof
end

