-- ==== Sys2Proof/Laws/Memory.lean ====
section
/-! SUPPORT. The laws of memory: a read gives the last byte written, every operation keeps the canonical form, and a memory in
canonical form is determined by its reads. -/
namespace Sys2Proof.Machine

theorem Memory.read_erase (m : Memory) (a b : Nat) :
    Memory.read (Memory.erase m a) b = if b = a then Memory.unlisted else Memory.read m b := by
  induction m with
  | nil => simp [Memory.erase, Memory.read]
  | cons c m ih =>
    obtain ⟨x, v⟩ := c
    by_cases hx : x = a
    · subst hx
      by_cases hb : b = x
      · subst hb; simp [Memory.erase, ih]
      · simp [Memory.erase, Memory.read, ih, hb, Ne.symm hb]
    · by_cases hb : x = b
      · subst hb; simp [Memory.erase, Memory.read, hx]
      · simp [Memory.erase, Memory.read, ih, hx, hb]

theorem Memory.read_insert (m : Memory) (a b : Nat) (v : Byte) (h : ∀ c ∈ m, c.1 ≠ a) :
    Memory.read (Memory.insert m a v) b = if b = a then v else Memory.read m b := by
  induction m with
  | nil =>
    by_cases hb : b = a
    · simp [Memory.insert, Memory.read, hb]
    · simp [Memory.insert, Memory.read, hb, Ne.symm hb]
  | cons c m ih =>
    obtain ⟨x, w⟩ := c
    have hx : x ≠ a := h (x, w) (by simp)
    have ih' := ih fun c hc => h c (by simp [hc])
    unfold Memory.insert
    split
    · by_cases hb : b = a
      · simp [Memory.read, hb]
      · simp [Memory.read, hb, Ne.symm hb]
    · by_cases hb : x = b
      · subst hb; simp [Memory.read, hx]
      · simp [Memory.read, hb, ih']

theorem Memory.mem_erase {m : Memory} {a : Nat} {c : Host.Cell} (h : c ∈ Memory.erase m a) : c ∈ m ∧ c.1 ≠ a := by
  induction m with
  | nil => simp [Memory.erase] at h
  | cons d m ih =>
    obtain ⟨x, v⟩ := d
    unfold Memory.erase at h
    split at h
    · exact ⟨by simp [(ih h).1], (ih h).2⟩
    · rcases List.mem_cons.mp h with rfl | h
      · exact ⟨by simp, by assumption⟩
      · exact ⟨by simp [(ih h).1], (ih h).2⟩

/-- A read after a write: the byte written at that address, and every other address as before. -/
@[simp] theorem Memory.read_write (m : Memory) (a b : Nat) (v : Byte) :
    Memory.read (Memory.write m a v) b = if b = a then v else Memory.read m b := by
  unfold Memory.write
  split
  · rename_i hv; simp [Memory.read_erase, hv]
  · rw [Memory.read_insert _ _ _ _ fun c hc => (Memory.mem_erase hc).2, Memory.read_erase]
    by_cases hb : b = a <;> simp [hb]

/-- The canonical form of a non-empty list. -/
theorem Memory.wf_cons (a : Nat) (v : Byte) (m : Memory) :
    Memory.wf ((a, v) :: m) = true ↔
      a < Memory.size ∧ v ≠ Memory.unlisted ∧ (∀ c ∈ m, a < c.1) ∧ Memory.wf m = true := by
  simp [Memory.wf, and_assoc]

theorem Memory.erase_wf {m : Memory} {a : Nat} (h : Memory.wf m = true) : Memory.wf (Memory.erase m a) = true := by
  induction m with
  | nil => exact h
  | cons c m ih =>
    obtain ⟨x, v⟩ := c
    obtain ⟨hx, hv, hm, hw⟩ := (Memory.wf_cons _ _ _).mp h
    unfold Memory.erase
    split
    · exact ih hw
    · exact (Memory.wf_cons _ _ _).mpr ⟨hx, hv, fun c hc => hm c (Memory.mem_erase hc).1, ih hw⟩

theorem Memory.mem_insert {m : Memory} {a : Nat} {v : Byte} {c : Host.Cell} (h : c ∈ Memory.insert m a v) :
    c = (a, v) ∨ c ∈ m := by
  induction m with
  | nil => simpa [Memory.insert] using h
  | cons d m ih =>
    obtain ⟨x, w⟩ := d
    unfold Memory.insert at h
    split at h
    · simpa using h
    · rcases List.mem_cons.mp h with rfl | h
      · simp
      · rcases ih h with h | h <;> simp [h]

theorem Memory.insert_wf {m : Memory} {a : Nat} {v : Byte} (h : Memory.wf m = true) (hm : ∀ c ∈ m, c.1 ≠ a)
    (ha : a < Memory.size) (hv : v ≠ Memory.unlisted) : Memory.wf (Memory.insert m a v) = true := by
  induction m with
  | nil => simp [Memory.insert, Memory.wf, ha, hv]
  | cons c m ih =>
    obtain ⟨x, w⟩ := c
    obtain ⟨hx, hw, hrise, htail⟩ := (Memory.wf_cons _ _ _).mp h
    have hxa : x ≠ a := hm (x, w) (by simp)
    unfold Memory.insert
    split
    · rename_i hlt
      refine (Memory.wf_cons _ _ _).mpr ⟨ha, hv, fun c hc => ?_, h⟩
      rcases List.mem_cons.mp hc with rfl | hc
      · exact hlt
      · exact hlt.trans (hrise c hc)
    · refine (Memory.wf_cons _ _ _).mpr ⟨hx, hw, fun c hc => ?_, ih htail fun c hc => hm c (by simp [hc])⟩
      rcases Memory.mem_insert hc with rfl | hc
      · simp only; omega
      · exact hrise c hc

/-- A write inside the space keeps the canonical form. -/
theorem Memory.write_wf {m : Memory} {a : Nat} (v : Byte) (h : Memory.wf m = true) (ha : a < Memory.size) :
    Memory.wf (Memory.write m a v) = true := by
  unfold Memory.write
  split
  · exact Memory.erase_wf h
  · exact Memory.insert_wf (Memory.erase_wf h) (fun c hc => (Memory.mem_erase hc).2) ha (by assumption)

/-- Whatever cells describe it, a memory is in canonical form. -/
@[simp] theorem Memory.ofCells_wf (cs : List Host.Cell) : Memory.wf (Memory.ofCells cs) = true := by
  induction cs with
  | nil => rfl
  | cons c cs ih =>
    obtain ⟨a, v⟩ := c
    unfold Memory.ofCells
    split
    · exact Memory.write_wf v ih (by assumption)
    · exact ih

/-- The byte that cells describe: that of the first entry of the address. -/
theorem Memory.read_ofCells (a : Nat) (v : Byte) (cs : List Host.Cell) (b : Nat) (ha : a < Memory.size) :
    Memory.read (Memory.ofCells ((a, v) :: cs)) b = if b = a then v else Memory.read (Memory.ofCells cs) b := by
  simp [Memory.ofCells, ha]

end Sys2Proof.Machine
end

