-- ==== Sys2Proof/Laws/State.lean ====
section
/-! SUPPORT. What each update of State does to each field and to each register read, so that no later proof unfolds one. -/
namespace Sys2Proof.Machine

/-! ### Registers as stored -/

@[simp] theorem RegFile.get8_set8 (rf : RegFile) (g e : Reg8) (v : Byte) :
    (rf.set8 g v).get8 e = if e = g then v else rf.get8 e := by
  cases g <;> cases e <;> rfl

@[simp] theorem RegFile.get16_set8 (rf : RegFile) (g : Reg8) (e : Reg16) (v : Byte) :
    (rf.set8 g v).get16 e = rf.get16 e := by
  cases g <;> cases e <;> rfl

@[simp] theorem RegFile.get8_set16 (rf : RegFile) (h : Reg16) (e : Reg8) (v : Word) :
    (rf.set16 h v).get8 e = rf.get8 e := by
  cases h <;> cases e <;> rfl

@[simp] theorem RegFile.get16_set16 (rf : RegFile) (h e : Reg16) (v : Word) :
    (rf.set16 h v).get16 e = if e = h then v else rf.get16 e := by
  cases h <;> cases e <;> rfl

/-! ### Named registers are reads -/

theorem State.read16_vp (s : State) : s.read16 .vp = s.regs.vp := rfl

theorem State.read16_w0 (s : State) : s.read16 .w0 = s.regs.w0 := rfl

theorem State.read16_w1 (s : State) : s.read16 .w1 = s.regs.w1 := rfl

theorem State.read16_ic (s : State) : s.read16 .ic = s.regs.ic := rfl

theorem State.read16_fl (s : State) : s.read16 .fl = s.regs.fl := rfl

theorem State.read16_cr (s : State) : s.read16 .cr = s.regs.cr := rfl

theorem State.read16_sp (s : State) : s.read16 .sp = s.regs.sp := rfl

@[simp] theorem State.read_r8 (s : State) (g : Reg8) : s.read (.r8 g) = .v8 (s.read8 g) := rfl

@[simp] theorem State.read_r16 (s : State) (h : Reg16) : s.read (.r16 h) = .v16 (s.read16 h) := rfl

theorem State.zrFixed_iff (s : State) (h : Reg16) :
    s.zrFixed h = true ↔ h = .zr ∧ s.params.zrMode = .hardwiredZero := by
  simp [State.zrFixed]

theorem State.zrFixed_eq_false (s : State) {h : Reg16} (hz : h ≠ .zr) : s.zrFixed h = false := by
  simp [State.zrFixed, hz]

/-! ### The fields that an update leaves alone -/

@[simp] theorem State.write8_mem (s : State) (g : Reg8) (v : Byte) : (s.write8 g v).mem = s.mem := rfl

@[simp] theorem State.write8_status (s : State) (g : Reg8) (v : Byte) : (s.write8 g v).status = s.status := rfl

@[simp] theorem State.write8_params (s : State) (g : Reg8) (v : Byte) : (s.write8 g v).params = s.params := rfl

@[simp] theorem State.write8_hostScript (s : State) (g : Reg8) (v : Byte) : (s.write8 g v).hostScript = s.hostScript := rfl

@[simp] theorem State.write8_draws (s : State) (g : Reg8) (v : Byte) : (s.write8 g v).draws = s.draws := rfl

@[simp] theorem State.write16_mem (s : State) (h : Reg16) (v : Word) : (s.write16 h v).mem = s.mem := by
  unfold State.write16; split <;> rfl

@[simp] theorem State.write16_status (s : State) (h : Reg16) (v : Word) : (s.write16 h v).status = s.status := by
  unfold State.write16; split <;> rfl

@[simp] theorem State.write16_params (s : State) (h : Reg16) (v : Word) : (s.write16 h v).params = s.params := by
  unfold State.write16; split <;> rfl

@[simp] theorem State.write16_hostScript (s : State) (h : Reg16) (v : Word) : (s.write16 h v).hostScript = s.hostScript := by
  unfold State.write16; split <;> rfl

@[simp] theorem State.write16_draws (s : State) (h : Reg16) (v : Word) : (s.write16 h v).draws = s.draws := by
  unfold State.write16; split <;> rfl

@[simp] theorem State.setFl_mem (s : State) (v : Word) : (s.setFl v).mem = s.mem := rfl

@[simp] theorem State.setFl_status (s : State) (v : Word) : (s.setFl v).status = s.status := rfl

@[simp] theorem State.setFl_params (s : State) (v : Word) : (s.setFl v).params = s.params := rfl

@[simp] theorem State.setFl_hostScript (s : State) (v : Word) : (s.setFl v).hostScript = s.hostScript := rfl

@[simp] theorem State.setFl_draws (s : State) (v : Word) : (s.setFl v).draws = s.draws := rfl

@[simp] theorem State.setSp_mem (s : State) (v : Word) : (s.setSp v).mem = s.mem := rfl

@[simp] theorem State.setSp_status (s : State) (v : Word) : (s.setSp v).status = s.status := rfl

@[simp] theorem State.setSp_params (s : State) (v : Word) : (s.setSp v).params = s.params := rfl

@[simp] theorem State.setSp_hostScript (s : State) (v : Word) : (s.setSp v).hostScript = s.hostScript := rfl

@[simp] theorem State.setSp_draws (s : State) (v : Word) : (s.setSp v).draws = s.draws := rfl

@[simp] theorem State.setVp_mem (s : State) (v : Word) : (s.setVp v).mem = s.mem := rfl

@[simp] theorem State.setVp_status (s : State) (v : Word) : (s.setVp v).status = s.status := rfl

@[simp] theorem State.setVp_params (s : State) (v : Word) : (s.setVp v).params = s.params := rfl

@[simp] theorem State.setVp_hostScript (s : State) (v : Word) : (s.setVp v).hostScript = s.hostScript := rfl

@[simp] theorem State.setVp_draws (s : State) (v : Word) : (s.setVp v).draws = s.draws := rfl

@[simp] theorem State.fell_mem (s : State) (n : Nat) : (s.fell n).mem = s.mem := rfl

@[simp] theorem State.fell_status (s : State) (n : Nat) : (s.fell n).status = s.status := rfl

@[simp] theorem State.fell_params (s : State) (n : Nat) : (s.fell n).params = s.params := rfl

@[simp] theorem State.fell_hostScript (s : State) (n : Nat) : (s.fell n).hostScript = s.hostScript := rfl

@[simp] theorem State.fell_draws (s : State) (n : Nat) : (s.fell n).draws = s.draws := rfl

@[simp] theorem State.jumped_mem (s : State) (t : Word) : (s.jumped t).mem = s.mem := rfl

@[simp] theorem State.jumped_status (s : State) (t : Word) : (s.jumped t).status = s.status := rfl

@[simp] theorem State.jumped_params (s : State) (t : Word) : (s.jumped t).params = s.params := rfl

@[simp] theorem State.jumped_hostScript (s : State) (t : Word) : (s.jumped t).hostScript = s.hostScript := rfl

@[simp] theorem State.jumped_draws (s : State) (t : Word) : (s.jumped t).draws = s.draws := rfl

@[simp] theorem State.exited_mem (s : State) (code : Nat) : (s.exited code).mem = s.mem := rfl

@[simp] theorem State.exited_params (s : State) (code : Nat) : (s.exited code).params = s.params := rfl

@[simp] theorem State.exited_hostScript (s : State) (code : Nat) : (s.exited code).hostScript = s.hostScript := rfl

@[simp] theorem State.exited_draws (s : State) (code : Nat) : (s.exited code).draws = s.draws := rfl

@[simp] theorem State.exited_regs (s : State) (code : Nat) : (s.exited code).regs = s.regs := rfl

@[simp] theorem State.memWrite8_status (s : State) (a : Word) (v : Byte) : (s.memWrite8 a v).status = s.status := rfl

@[simp] theorem State.memWrite8_params (s : State) (a : Word) (v : Byte) : (s.memWrite8 a v).params = s.params := rfl

@[simp] theorem State.memWrite8_hostScript (s : State) (a : Word) (v : Byte) : (s.memWrite8 a v).hostScript = s.hostScript := rfl

@[simp] theorem State.memWrite8_draws (s : State) (a : Word) (v : Byte) : (s.memWrite8 a v).draws = s.draws := rfl

@[simp] theorem State.memWrite8_regs (s : State) (a : Word) (v : Byte) : (s.memWrite8 a v).regs = s.regs := rfl

@[simp] theorem State.store16_status (s : State) (a v : Word) : (s.store16 a v).status = s.status := rfl

@[simp] theorem State.store16_params (s : State) (a v : Word) : (s.store16 a v).params = s.params := rfl

@[simp] theorem State.store16_hostScript (s : State) (a v : Word) : (s.store16 a v).hostScript = s.hostScript := rfl

@[simp] theorem State.store16_draws (s : State) (a v : Word) : (s.store16 a v).draws = s.draws := rfl

@[simp] theorem State.store16_regs (s : State) (a v : Word) : (s.store16 a v).regs = s.regs := rfl

@[simp] theorem State.exited_status (s : State) (code : Nat) : (s.exited code).status = .exited code := rfl

/-! ### Register reads after an update -/

theorem State.read16_of_regs_params {s t : State} (hr : t.regs = s.regs) (hp : t.params = s.params) (h : Reg16) :
    t.read16 h = s.read16 h := by
  simp [State.read16, State.zrFixed, hr, hp]

@[simp] theorem State.write8_read8 (s : State) (g e : Reg8) (v : Byte) :
    (s.write8 g v).read8 e = if e = g then v else s.read8 e := by
  simp [State.write8, State.read8]

@[simp] theorem State.write8_read16 (s : State) (g : Reg8) (v : Byte) (e : Reg16) :
    (s.write8 g v).read16 e = s.read16 e := by
  simp [State.write8, State.read16, State.zrFixed]

@[simp] theorem State.write16_read8 (s : State) (h : Reg16) (v : Word) (e : Reg8) :
    (s.write16 h v).read8 e = s.read8 e := by
  unfold State.write16; split <;> simp [State.read8]

@[simp] theorem State.write16_read16 (s : State) (h : Reg16) (v : Word) (e : Reg16) :
    (s.write16 h v).read16 e = if e = h then (if s.zrFixed h then 0 else v) else s.read16 e := by
  unfold State.write16 State.read16
  by_cases hz : s.zrFixed h
  · by_cases he : e = h <;> simp [hz, he]
  · by_cases he : e = h
    · subst he
      have : State.zrFixed { s with regs := s.regs.set16 e v } e = s.zrFixed e := rfl
      simp [hz, this]
    · have : State.zrFixed { s with regs := s.regs.set16 h v } e = s.zrFixed e := rfl
      simp [hz, he, this]

@[simp] theorem State.setFl_read8 (s : State) (v : Word) (e : Reg8) : (s.setFl v).read8 e = s.read8 e := by
  cases e <;> rfl

@[simp] theorem State.setFl_read16 (s : State) (v : Word) (e : Reg16) :
    (s.setFl v).read16 e = if e = .fl then v else s.read16 e := by
  cases e <;> rfl

@[simp] theorem State.setSp_read8 (s : State) (v : Word) (e : Reg8) : (s.setSp v).read8 e = s.read8 e := by
  cases e <;> rfl

@[simp] theorem State.setSp_read16 (s : State) (v : Word) (e : Reg16) :
    (s.setSp v).read16 e = if e = .sp then v else s.read16 e := by
  cases e <;> rfl

@[simp] theorem State.setVp_read8 (s : State) (v : Word) (e : Reg8) : (s.setVp v).read8 e = s.read8 e := by
  cases e <;> rfl

@[simp] theorem State.setVp_read16 (s : State) (v : Word) (e : Reg16) :
    (s.setVp v).read16 e = if e = .vp then v else s.read16 e := by
  cases e <;> rfl

@[simp] theorem State.fell_read8 (s : State) (n : Nat) (e : Reg8) : (s.fell n).read8 e = s.read8 e := by
  cases e <;> rfl

@[simp] theorem State.fell_read16 (s : State) (n : Nat) (e : Reg16) :
    (s.fell n).read16 e = if e = .ic then s.regs.ic + BitVec.ofNat 16 n else s.read16 e := by
  cases e <;> rfl

@[simp] theorem State.jumped_read8 (s : State) (t : Word) (e : Reg8) : (s.jumped t).read8 e = s.read8 e := by
  cases e <;> rfl

@[simp] theorem State.jumped_read16 (s : State) (t : Word) (e : Reg16) :
    (s.jumped t).read16 e = if e = .ic then t else s.read16 e := by
  cases e <;> rfl

@[simp] theorem State.exited_read8 (s : State) (code : Nat) (e : Reg8) : (s.exited code).read8 e = s.read8 e := rfl

@[simp] theorem State.exited_read16 (s : State) (code : Nat) (e : Reg16) : (s.exited code).read16 e = s.read16 e := rfl

@[simp] theorem State.memWrite8_read8 (s : State) (a : Word) (v : Byte) (e : Reg8) : (s.memWrite8 a v).read8 e = s.read8 e := rfl

@[simp] theorem State.memWrite8_read16 (s : State) (a : Word) (v : Byte) (e : Reg16) : (s.memWrite8 a v).read16 e = s.read16 e := rfl

@[simp] theorem State.store16_read8 (s : State) (a v : Word) (e : Reg8) : (s.store16 a v).read8 e = s.read8 e := rfl

@[simp] theorem State.store16_read16 (s : State) (a v : Word) (e : Reg16) : (s.store16 a v).read16 e = s.read16 e := rfl

/-! ### The named registers after an update -/

@[simp] theorem State.write8_ic (s : State) (g : Reg8) (v : Byte) : (s.write8 g v).regs.ic = s.regs.ic := by
  cases g <;> rfl

@[simp] theorem State.write8_sp (s : State) (g : Reg8) (v : Byte) : (s.write8 g v).regs.sp = s.regs.sp := by
  cases g <;> rfl

@[simp] theorem State.write8_fl (s : State) (g : Reg8) (v : Byte) : (s.write8 g v).regs.fl = s.regs.fl := by
  cases g <;> rfl

@[simp] theorem State.write8_vp (s : State) (g : Reg8) (v : Byte) : (s.write8 g v).regs.vp = s.regs.vp := by
  cases g <;> rfl

@[simp] theorem State.write16_ic (s : State) (h : Reg16) (v : Word) :
    (s.write16 h v).regs.ic = if h = .ic then v else s.regs.ic := by
  unfold State.write16
  split
  · rename_i hz; rw [State.zrFixed_iff] at hz; simp [hz.1]
  · cases h <;> rfl

@[simp] theorem State.write16_sp (s : State) (h : Reg16) (v : Word) :
    (s.write16 h v).regs.sp = if h = .sp then v else s.regs.sp := by
  unfold State.write16
  split
  · rename_i hz; rw [State.zrFixed_iff] at hz; simp [hz.1]
  · cases h <;> rfl

@[simp] theorem State.write16_fl (s : State) (h : Reg16) (v : Word) :
    (s.write16 h v).regs.fl = if h = .fl then v else s.regs.fl := by
  unfold State.write16
  split
  · rename_i hz; rw [State.zrFixed_iff] at hz; simp [hz.1]
  · cases h <;> rfl

@[simp] theorem State.write16_vp (s : State) (h : Reg16) (v : Word) :
    (s.write16 h v).regs.vp = if h = .vp then v else s.regs.vp := by
  unfold State.write16
  split
  · rename_i hz; rw [State.zrFixed_iff] at hz; simp [hz.1]
  · cases h <;> rfl

@[simp] theorem State.setFl_ic (s : State) (v : Word) : (s.setFl v).regs.ic = s.regs.ic := rfl

@[simp] theorem State.setFl_sp (s : State) (v : Word) : (s.setFl v).regs.sp = s.regs.sp := rfl

@[simp] theorem State.setFl_fl (s : State) (v : Word) : (s.setFl v).regs.fl = v := rfl

@[simp] theorem State.setFl_vp (s : State) (v : Word) : (s.setFl v).regs.vp = s.regs.vp := rfl

@[simp] theorem State.setSp_ic (s : State) (v : Word) : (s.setSp v).regs.ic = s.regs.ic := rfl

@[simp] theorem State.setSp_sp (s : State) (v : Word) : (s.setSp v).regs.sp = v := rfl

@[simp] theorem State.setSp_fl (s : State) (v : Word) : (s.setSp v).regs.fl = s.regs.fl := rfl

@[simp] theorem State.setSp_vp (s : State) (v : Word) : (s.setSp v).regs.vp = s.regs.vp := rfl

@[simp] theorem State.setVp_ic (s : State) (v : Word) : (s.setVp v).regs.ic = s.regs.ic := rfl

@[simp] theorem State.setVp_sp (s : State) (v : Word) : (s.setVp v).regs.sp = s.regs.sp := rfl

@[simp] theorem State.setVp_fl (s : State) (v : Word) : (s.setVp v).regs.fl = s.regs.fl := rfl

@[simp] theorem State.setVp_vp (s : State) (v : Word) : (s.setVp v).regs.vp = v := rfl

@[simp] theorem State.fell_ic (s : State) (n : Nat) : (s.fell n).regs.ic = s.regs.ic + BitVec.ofNat 16 n := rfl

@[simp] theorem State.fell_sp (s : State) (n : Nat) : (s.fell n).regs.sp = s.regs.sp := rfl

@[simp] theorem State.fell_fl (s : State) (n : Nat) : (s.fell n).regs.fl = s.regs.fl := rfl

@[simp] theorem State.fell_vp (s : State) (n : Nat) : (s.fell n).regs.vp = s.regs.vp := rfl

@[simp] theorem State.jumped_ic (s : State) (t : Word) : (s.jumped t).regs.ic = t := rfl

@[simp] theorem State.jumped_sp (s : State) (t : Word) : (s.jumped t).regs.sp = s.regs.sp := rfl

@[simp] theorem State.jumped_fl (s : State) (t : Word) : (s.jumped t).regs.fl = s.regs.fl := rfl

@[simp] theorem State.jumped_vp (s : State) (t : Word) : (s.jumped t).regs.vp = s.regs.vp := rfl

end Sys2Proof.Machine
end

