-- ==== Sys2Proof/Laws/Ops.lean ====
section
/-! SUPPORT. What each shared operation can do, said once: memory accesses, register fields, pushes and pops. -/
namespace Sys2Proof.Machine

/-! ### Bytes of memory after an update -/

theorem State.byteAt_of_mem {s t : State} (h : t.mem = s.mem) (a : Nat) : t.byteAt a = s.byteAt a := by
  unfold State.byteAt; rw [h]

@[simp] theorem State.memWrite8_byteAt (s : State) (a : Word) (v : Byte) (b : Nat) :
    (s.memWrite8 a v).byteAt b = if b = a.toNat then v else s.byteAt b := by
  simp [State.memWrite8, State.byteAt]

@[simp] theorem State.store16_byteAt (s : State) (a v : Word) (b : Nat) :
    (s.store16 a v).byteAt b =
      if b = a.toNat + 1 then hiByte v else if b = a.toNat then loByte v else s.byteAt b := by
  simp [State.store16, State.byteAt]

/-- R38: only a 2-byte access at 65535 goes past the end of memory. -/
theorem outOfBounds_two (a : Word) : outOfBounds a 2 = true ↔ a = 65535 := by
  have := a.isLt
  unfold outOfBounds Memory.size
  rw [decide_eq_true_iff]
  exact ⟨fun h => BitVec.eq_of_toNat_eq (show a.toNat = 65535 by omega), by rintro rfl; decide⟩

/-- A 2-byte read goes on with the two bytes, or raises MemoryBounds at 65535. -/
theorem State.memRead16_eq (s : State) (a : Word) (k : Word → Result) :
    s.memRead16 a k =
      if a = 65535 then .fault (.memoryBounds a 2) else k (le16 (s.byteAt a.toNat) (s.byteAt (a.toNat + 1))) := by
  unfold State.memRead16 raise
  by_cases h : a = 65535
  · rw [if_pos ((outOfBounds_two a).mpr h), if_pos h]
  · rw [if_neg (mt (outOfBounds_two a).mp h), if_neg h]

/-- A 2-byte write goes on in the state with both bytes stored, or raises MemoryBounds at 65535. -/
theorem State.memWrite16_eq (s : State) (a v : Word) (k : State → Result) :
    s.memWrite16 a v k = if a = 65535 then .fault (.memoryBounds a 2) else k (s.store16 a v) := by
  unfold State.memWrite16 raise
  by_cases h : a = 65535
  · rw [if_pos ((outOfBounds_two a).mpr h), if_pos h]
  · rw [if_neg (mt (outOfBounds_two a).mp h), if_neg h]

/-- Storing two bytes below 65535 keeps the canonical form. -/
theorem State.store16_wf {s : State} {a v : Word} (h : Memory.wf s.mem = true) (ha : a ≠ 65535) :
    Memory.wf (s.store16 a v).mem = true := by
  have hlt := a.isLt
  have hne : a.toNat ≠ 65535 := fun hc => ha (BitVec.eq_of_toNat_eq hc)
  refine Memory.write_wf _ (Memory.write_wf _ h ?_) ?_ <;> unfold Memory.size <;> omega

/-- Storing one byte keeps the canonical form. -/
theorem State.memWrite8_wf {s : State} (a : Word) (v : Byte) (h : Memory.wf s.mem = true) :
    Memory.wf (s.memWrite8 a v).mem = true :=
  Memory.write_wf _ h a.isLt

/-! ### Register fields -/

@[simp] theorem withReg8_r8 (g : Reg8) (s : State) (k : Reg8 → Result) : withReg8 (.r8 g) s k = k g := rfl

@[simp] theorem withReg8_r16 (h : Reg16) (s : State) (k : Reg8 → Result) :
    withReg8 (.r16 h) s k = .fault (.badSelector s.regs.ic h.selector) := rfl

@[simp] theorem withReg16_r16 (h : Reg16) (s : State) (k : Reg16 → Result) : withReg16 (.r16 h) s k = k h := rfl

@[simp] theorem withReg16_r8 (g : Reg8) (s : State) (k : Reg16 → Result) :
    withReg16 (.r8 g) s k = .fault (.badSelector s.regs.ic g.selector) := rfl

@[simp] theorem withDest16_r16 (h : Reg16) (s : State) (k : Reg16 → Result) :
    withDest16 (.r16 h) s k = if h = .ic then .fault (.icWrite s.regs.ic h.selector) else k h := rfl

@[simp] theorem withDest16_r8 (g : Reg8) (s : State) (k : Reg16 → Result) :
    withDest16 (.r8 g) s k = .fault (.badSelector s.regs.ic g.selector) := rfl

/-- A width-8 field that lets the instruction go on names an 8-bit register. -/
theorem withReg8_next {r : Reg} {s t : State} {k : Reg8 → Result} (h : withReg8 r s k = .next t) :
    ∃ g, r = .r8 g ∧ k g = .next t := by
  cases r with
  | r8 g => exact ⟨g, rfl, h⟩
  | r16 _ => cases h

/-- A width-16 field that lets the instruction go on names a 16-bit register. -/
theorem withReg16_next {r : Reg} {s t : State} {k : Reg16 → Result} (h : withReg16 r s k = .next t) :
    ∃ d, r = .r16 d ∧ k d = .next t := by
  cases r with
  | r8 _ => cases h
  | r16 d => exact ⟨d, rfl, h⟩

/-- A width-16 destination that lets the instruction go on names a 16-bit register other than `ic`. -/
theorem withDest16_next {r : Reg} {s t : State} {k : Reg16 → Result} (h : withDest16 r s k = .next t) :
    ∃ d, r = .r16 d ∧ d ≠ .ic ∧ k d = .next t := by
  obtain ⟨d, rfl, hd⟩ := withReg16_next h
  split at hd
  · cases hd
  · exact ⟨d, rfl, by assumption, hd⟩

/-! ### Pushes and pops -/

/-- A 2-byte push goes on with the bytes stored and `sp` advanced, or raises MemoryBounds at 65535 (R113). -/
theorem State.push16_eq (s : State) (v : Word) (k : State → Result) :
    s.push16 v k =
      if s.regs.sp = 65535 then .fault (.memoryBounds s.regs.sp 2)
      else k ((s.store16 s.regs.sp v).setSp (s.regs.sp + 2)) :=
  s.memWrite16_eq _ _ _

/-- A 2-byte pop goes on with the bytes below `sp` and `sp` stepped back, or raises MemoryBounds when that is 65535
(R115). -/
theorem State.pop16_eq (s : State) (k : State → Word → Result) :
    s.pop16 k =
      if s.regs.sp - 2 = 65535 then .fault (.memoryBounds (s.regs.sp - 2) 2)
      else k (s.setSp (s.regs.sp - 2))
        (le16 (s.byteAt (s.regs.sp - 2).toNat) (s.byteAt ((s.regs.sp - 2).toNat + 1))) :=
  (s.setSp (s.regs.sp - 2)).memRead16_eq _ _

end Sys2Proof.Machine
end

