-- ==== Sys2Proof/Laws/Claims.lean ====
section
/-! SUPPORT. The claim terms of Safety.lean taken apart: registers kept by class, a written 16-bit register, a stored word. -/
namespace Sys2Proof.Machine

/-- Registers are kept when those of each class are. -/
theorem regsKept_iff (c : List Reg) (s t : State) :
    RegsKept c s t ↔
      (∀ g, .r8 g ∉ c → t.read8 g = s.read8 g) ∧ (∀ h, .r16 h ∉ c → t.read16 h = s.read16 h) := by
  constructor
  · intro h
    exact ⟨fun g hg => by simpa using h _ hg, fun d hd => by simpa using h _ hd⟩
  · rintro ⟨h8, h16⟩ r hr
    cases r with
    | r8 g => simp [h8 g hr]
    | r16 d => simp [h16 d hr]

/-- The condition of `Wrote16` is the one the register write tests. -/
theorem wrote16_iff (d : Reg16) (v : Nat) (s t : State) :
    Wrote16 d v s t ↔ (t.read16 d).toNat = if s.zrFixed d then 0 else v := by
  simp only [Wrote16, State.zrFixed_iff]

/-- A write of a 16-bit register writes it, `zr` by its mode (R24, R80). -/
theorem wrote16_write16 (s : State) (d : Reg16) (v : Word) : Wrote16 d v.toNat s (s.write16 d v) := by
  rw [wrote16_iff, State.write16_read16, if_pos rfl]
  split <;> rfl

/-- A stored word is held at its address, low byte first (R40). -/
theorem holds16_store16 (s : State) (a v : Word) : Holds16 a.toNat v (s.store16 a v) := by
  simp [Holds16, loByte_toNat, hiByte_toNat]

/-- Storing a word touches its two bytes only (R40). -/
theorem memKeptOutside_store16 (s : State) (a v : Word) : MemKeptOutside a.toNat 2 s (s.store16 a v) := by
  intro b hb
  rw [State.store16_byteAt, if_neg (by omega), if_neg (by omega)]

/-- Storing a byte touches that byte only (R40). -/
theorem memKeptOutside_memWrite8 (s : State) (a : Word) (v : Byte) :
    MemKeptOutside a.toNat 1 s (s.memWrite8 a v) := by
  intro b hb
  rw [State.memWrite8_byteAt, if_neg (by omega)]

end Sys2Proof.Machine
end

