-- ==== Sys2Proof/Laws/Loop.lean ====
section
/-! SUPPORT. What the loop adds around exec, said once: CheckIC, what follows an instruction, and one step. -/
namespace Sys2Proof.Machine

/-- CheckIC halts at L, goes on below it, and faults above it (R73). -/
theorem checkIC_next {s t : State} (h : checkIC s = .next t) :
    (s.regs.ic.toNat = s.params.prog.length ∧ t = { s with status := .halted }) ∨
      (s.regs.ic.toNat < s.params.prog.length ∧ t = s) := by
  unfold checkIC raise at h
  split at h
  · injection h with h; exact .inl ⟨by assumption, h.symm⟩
  · split at h
    · cases h
    · injection h with h; exact .inr ⟨by omega, h.symm⟩

/-- The only fatal error of CheckIC is IcOverrun (R73). -/
theorem checkIC_fault {s : State} {f : Fault} (h : checkIC s = .fault f) :
    s.params.prog.length < s.regs.ic.toNat ∧ f = .icOverrun s.regs.ic := by
  unfold checkIC raise at h
  split at h
  · cases h
  · split at h
    · injection h with h; exact ⟨by assumption, h.symm⟩
    · cases h

/-- What follows an instruction: CheckIC when the machine still runs, nothing when it has exited. -/
theorem afterExec_next {r : Result} {t : State} (h : afterExec r = .next t) :
    ∃ u, r = .next u ∧ ((u.status = .running ∧ checkIC u = .next t) ∨ (u.status ≠ .running ∧ t = u)) := by
  unfold afterExec at h
  split at h
  · split at h
    · exact ⟨_, rfl, .inl ⟨by assumption, h⟩⟩
    · injection h with h; exact ⟨_, rfl, .inr ⟨by assumption, h.symm⟩⟩
  · cases h
  · cases h

/-- A step is enabled only from Running (R27). -/
theorem step_next_running {s t : State} (h : step s = .next t) : s.status = .running := by
  unfold step loopStep at h
  split at h
  · assumption
  all_goals cases h

/-- A step that gives a next state runs the instruction at `ic`, or is the loop's check where there is none. -/
theorem step_next {s t : State} (h : step s = .next t) :
    s.status = .running ∧
      ((∃ i rest, decode s.fetchBytes = .ok (i, rest) ∧ afterExec (exec i s) = .next t) ∨
        (s.fetchBytes = [] ∧ checkIC s = .next t)) := by
  have hr := step_next_running h
  unfold step loopStep at h
  simp only [hr] at h
  refine ⟨hr, ?_⟩
  unfold fetchExec at h
  split at h
  · exact .inl ⟨_, _, by assumption, h⟩
  · rename_i e he
    cases e with
    | noByte =>
      refine .inr ⟨?_, h⟩
      unfold decode at he
      split at he
      · assumption
      · split at he
        · rcases Form.parse_error he with hc | ⟨_, hc⟩ <;> cases hc
        · cases he
    | reservedOpcode _ => cases h
    | truncated _ => cases h
    | reservedNibble _ _ => cases h

end Sys2Proof.Machine
end

