-- ==== Sys2Proof/Laws/Shapes.lean ====
section
/-! SUPPORT. What each operand shape of the ALU family can do when it answers a next state: the registers its fields name, and
that state. Every ALU meaning is one of these shapes, so a proof over instructions cites them and unfolds no meaning. -/
namespace Sys2Proof.Machine

theorem aluRR8_next {f : Byte → Byte → Byte} {a b : Reg} {s t : State} (h : aluRR8 f a b s = .next t) :
    ∃ d e, a = .r8 d ∧ b = .r8 e ∧ t = (s.write8 d (f (s.read8 d) (s.read8 e))).fell 2 := by
  obtain ⟨d, rfl, hd⟩ := withReg8_next h
  obtain ⟨e, rfl, he⟩ := withReg8_next hd
  injection he with he
  exact ⟨d, e, rfl, rfl, he.symm⟩

theorem aluRR16_next {f : Word → Word → Word} {a b : Reg} {s t : State} (h : aluRR16 f a b s = .next t) :
    ∃ d e, a = .r16 d ∧ d ≠ .ic ∧ b = .r16 e ∧ t = (s.write16 d (f (s.read16 d) (s.read16 e))).fell 2 := by
  obtain ⟨d, rfl, hd, hk⟩ := withDest16_next h
  obtain ⟨e, rfl, he⟩ := withReg16_next hk
  injection he with he
  exact ⟨d, e, rfl, hd, rfl, he.symm⟩

theorem aluRI8_next {f : Byte → Byte → Byte} {a : Reg} {imm : Byte} {s t : State} (h : aluRI8 f a imm s = .next t) :
    ∃ d, a = .r8 d ∧ t = (s.write8 d (f (s.read8 d) imm)).fell 3 := by
  obtain ⟨d, rfl, hk⟩ := withReg8_next h
  injection hk with hk
  exact ⟨d, rfl, hk.symm⟩

theorem aluRI16_next {f : Word → Word → Word} {a : Reg} {imm : Word} {s t : State}
    (h : aluRI16 f a imm s = .next t) :
    ∃ d, a = .r16 d ∧ d ≠ .ic ∧ t = (s.write16 d (f (s.read16 d) imm)).fell 4 := by
  obtain ⟨d, rfl, hd, hk⟩ := withDest16_next h
  injection hk with hk
  exact ⟨d, rfl, hd, hk.symm⟩

theorem aluR8_next {f : Byte → Byte} {a : Reg} {s t : State} (h : aluR8 f a s = .next t) :
    ∃ d, a = .r8 d ∧ t = (s.write8 d (f (s.read8 d))).fell 2 := by
  obtain ⟨d, rfl, hk⟩ := withReg8_next h
  injection hk with hk
  exact ⟨d, rfl, hk.symm⟩

theorem aluR16_next {f : Word → Word} {a : Reg} {s t : State} (h : aluR16 f a s = .next t) :
    ∃ d, a = .r16 d ∧ d ≠ .ic ∧ t = (s.write16 d (f (s.read16 d))).fell 2 := by
  obtain ⟨d, rfl, hd, hk⟩ := withDest16_next h
  injection hk with hk
  exact ⟨d, rfl, hd, hk.symm⟩

/-- A width-8 field stops the instruction when its class is wrong, else what follows does. -/
theorem withReg8_fault {r : Reg} {s : State} {k : Reg8 → Result} {f : Fault} (h : withReg8 r s k = .fault f) :
    (∃ d, r = .r16 d ∧ f = .badSelector s.regs.ic d.selector) ∨ ∃ g, r = .r8 g ∧ k g = .fault f := by
  cases r with
  | r8 g => exact .inr ⟨g, rfl, h⟩
  | r16 d => injection h with h; exact .inl ⟨d, rfl, h.symm⟩

/-- A width-16 field stops the instruction when its class is wrong, else what follows does. -/
theorem withReg16_fault {r : Reg} {s : State} {k : Reg16 → Result} {f : Fault} (h : withReg16 r s k = .fault f) :
    (∃ g, r = .r8 g ∧ f = .badSelector s.regs.ic g.selector) ∨ ∃ d, r = .r16 d ∧ k d = .fault f := by
  cases r with
  | r8 g => injection h with h; exact .inl ⟨g, rfl, h.symm⟩
  | r16 d => exact .inr ⟨d, rfl, h⟩

/-- A width-16 destination stops the instruction when its class is wrong or it is `ic`, else what follows does. -/
theorem withDest16_fault {r : Reg} {s : State} {k : Reg16 → Result} {f : Fault} (h : withDest16 r s k = .fault f) :
    (∃ g, r = .r8 g ∧ f = .badSelector s.regs.ic g.selector) ∨
      (r = .r16 .ic ∧ f = .icWrite s.regs.ic 11) ∨ ∃ d, r = .r16 d ∧ d ≠ .ic ∧ k d = .fault f := by
  rcases withReg16_fault h with h | ⟨d, rfl, h⟩
  · exact .inl h
  · split at h
    · rename_i hd
      subst hd
      injection h with h
      exact .inr (.inl ⟨rfl, h.symm⟩)
    · exact .inr (.inr ⟨d, rfl, by assumption, h⟩)

end Sys2Proof.Machine
end

