-- ==== Sys2Proof/Laws/Syscall.lean ====
section
/-! SUPPORT. What a syscall can do, said once: the answer it takes, the result register, and the three outcomes. -/
namespace Sys2Proof.Machine

/-- `s` with all of memory replaced. -/
def State.withMem (s : State) (m : Memory) : State := { s with mem := m }

@[simp] theorem State.withMem_regs (s : State) (m : Memory) : (s.withMem m).regs = s.regs := rfl

@[simp] theorem State.withMem_mem (s : State) (m : Memory) : (s.withMem m).mem = m := rfl

@[simp] theorem State.withMem_status (s : State) (m : Memory) : (s.withMem m).status = s.status := rfl

@[simp] theorem State.withMem_params (s : State) (m : Memory) : (s.withMem m).params = s.params := rfl

@[simp] theorem State.withMem_hostScript (s : State) (m : Memory) : (s.withMem m).hostScript = s.hostScript := rfl

@[simp] theorem State.withMem_draws (s : State) (m : Memory) : (s.withMem m).draws = s.draws := rfl

@[simp] theorem State.withMem_read8 (s : State) (m : Memory) (g : Reg8) : (s.withMem m).read8 g = s.read8 g := rfl

@[simp] theorem State.withMem_read16 (s : State) (m : Memory) (h : Reg16) : (s.withMem m).read16 h = s.read16 h := rfl

@[simp] theorem State.hostAnswered_regs (s : State) : s.hostAnswered.regs = s.regs := by
  unfold State.hostAnswered; split <;> rfl

@[simp] theorem State.hostAnswered_mem (s : State) : s.hostAnswered.mem = s.mem := by
  unfold State.hostAnswered; split <;> rfl

@[simp] theorem State.hostAnswered_status (s : State) : s.hostAnswered.status = s.status := by
  unfold State.hostAnswered; split <;> rfl

@[simp] theorem State.hostAnswered_params (s : State) : s.hostAnswered.params = s.params := by
  unfold State.hostAnswered; split <;> rfl

@[simp] theorem State.hostAnswered_read8 (s : State) (g : Reg8) : s.hostAnswered.read8 g = s.read8 g := by
  simp [State.read8]

@[simp] theorem State.hostAnswered_read16 (s : State) (h : Reg16) : s.hostAnswered.read16 h = s.read16 h :=
  State.read16_of_regs_params s.hostAnswered_regs s.hostAnswered_params h

@[simp] theorem State.writeResult_mem (s : State) (v : Word) : (s.writeResult v).mem = s.mem := by
  unfold State.writeResult; split <;> simp

@[simp] theorem State.writeResult_status (s : State) (v : Word) : (s.writeResult v).status = s.status := by
  unfold State.writeResult; split <;> simp

@[simp] theorem State.writeResult_params (s : State) (v : Word) : (s.writeResult v).params = s.params := by
  unfold State.writeResult; split <;> simp

@[simp] theorem State.writeResult_hostScript (s : State) (v : Word) :
    (s.writeResult v).hostScript = s.hostScript := by
  unfold State.writeResult; split <;> simp

@[simp] theorem State.writeResult_draws (s : State) (v : Word) : (s.writeResult v).draws = s.draws := by
  unfold State.writeResult; split <;> simp

/-- The result register is never `ic` (R136). -/
@[simp] theorem State.writeResult_ic (s : State) (v : Word) : (s.writeResult v).regs.ic = s.regs.ic := by
  unfold State.writeResult
  split
  · simp
  · rename_i h hr
    have : h ≠ .ic := fun hc => s.params.nrSel.notIc (by rw [hr, hc])
    simp [this]

/-- An 8-bit register after the result is written, at 8 bits where it is the result register. -/
theorem State.writeResult_read8 (s : State) (v : Word) (g : Reg8) :
    (s.writeResult v).read8 g = if s.params.nrSel.reg = .r8 g then v.setWidth 8 else s.read8 g := by
  unfold State.writeResult
  split
  · rename_i k hr; by_cases hk : g = k <;> simp [hr, hk, eq_comm]
  · rename_i hr; simp [hr]

/-- A 16-bit register after the result is written; `zr` follows its mode. -/
theorem State.writeResult_read16 (s : State) (v : Word) (h : Reg16) :
    (s.writeResult v).read16 h =
      if s.params.nrSel.reg = .r16 h then (if s.zrFixed h then 0 else v) else s.read16 h := by
  unfold State.writeResult
  split
  · rename_i hr; simp [hr]
  · rename_i k hr
    by_cases hk : h = k
    · subst hk; simp [hr]
    · simp [hr, hk, Ne.symm hk]

/-- What each answer makes of the state in which the host has answered (R129). -/
theorem applyAnswer_cont (v : Word) (mem : List Host.Cell) (s : State) :
    applyAnswer (.cont v mem) s = .next (((s.writeResult v).withMem (Memory.ofCells mem)).fell 1) := rfl

/-- A syscall that gives a next state was answered Continue or Exit (R129). -/
theorem execSyscall_next {s t : State} (h : execSyscall s = .next t) :
    (∃ v mem, s.hostAnswer = .cont v mem ∧
      t = ((s.hostAnswered.writeResult v).withMem (Memory.ofCells mem)).fell 1) ∨
    ∃ code, s.hostAnswer = .exit code ∧ t = s.hostAnswered.exited code := by
  unfold execSyscall at h
  cases ha : s.hostAnswer with
  | cont v mem => rw [ha, applyAnswer_cont] at h; injection h with h; exact .inl ⟨v, mem, rfl, h.symm⟩
  | exit code => rw [ha] at h; injection h with h; exact .inr ⟨code, rfl, h.symm⟩
  | error info => rw [ha] at h; cases h

/-- The only fatal error of a syscall is the one the host reports (R129, R136). -/
theorem execSyscall_fault {s : State} {f : Fault} (h : execSyscall s = .fault f) :
    ∃ info, s.hostAnswer = .error info ∧ f = .hostError info := by
  unfold execSyscall at h
  cases ha : s.hostAnswer with
  | cont v mem => rw [ha] at h; cases h
  | exit code => rw [ha] at h; cases h
  | error info => rw [ha] at h; injection h with h; exact ⟨info, rfl, h.symm⟩

end Sys2Proof.Machine
end

