-- ==== Sys2Proof/Tests/Slice0.lean ====
section
/-! SUPPORT. Tests of the model: the well-formedness checks, the decoding of words written out from spec/30_encoding.md R51
and R60, single steps on the vectors of spec/95_test_vectors.md, the start of a run, and for every obligation with
hypotheses a witness that meets them. -/
namespace Sys2Proof.Tests

open Sys2Proof Sys2Proof.Machine

/-! ### Helpers -/

/-- A running machine with a program at offset 0, registers and memory. -/
def machine (prog : List Byte) (regs : RegFile) (cells : Memory) : State :=
  { State.reset with
    regs := regs
    mem := cells
    status := .running
    params := { Params.reset with prog := prog } }

/-- The same machine with the host's answers given. -/
def answered (s : State) (answers : List HostAnswer) : State := { s with hostScript := answers }

/-- The same machine under HardwiredZero. -/
def fixedZero (s : State) : State := { s with params := { s.params with zrMode := .hardwiredZero } }

/-- What an outcome shows of its next state. -/
def seen {α : Type} (r : Result) (f : State → α) : Option α :=
  match r with
  | .next t => some (f t)
  | .fault _ => none
  | .refused _ => none

/-- The fatal error of an outcome. -/
def failure (r : Result) : Option Fault :=
  match r with
  | .next _ => none
  | .fault f => some f
  | .refused _ => none

/-- A descriptor whose one variable is initialized, and one whose variable is not. -/
def image (prog : List Byte) (entry : Word) (descriptor : List Variable) : Image :=
  { prog := prog, entry := entry, descriptor := descriptor, zrMode := .storage, nrSel := Params.reset.nrSel,
    hostScript := [] }

/-- The draw that gives zeros. -/
def zeroDraw : ResetDraw := { regs := RegFile.reset, mem := [] }

/-- The reset registers, under a short name. -/
abbrev rz : RegFile := RegFile.reset

/-! ### Well-formedness (R54, R55): one ill-formed term for each check -/

theorem test_wf_refuses_wide_in_narrow : (Instr.addr8 (.r8 .r0) (.r16 .w0)).wellFormed = false := by decide

theorem test_wf_refuses_wide_first : (Instr.inc8 (.r16 .w0)).wellFormed = false := by decide

theorem test_wf_refuses_narrow_in_wide : (Instr.addr16 (.r16 .w0) (.r8 .r0)).wellFormed = false := by decide

theorem test_wf_refuses_narrow_destination : (Instr.ld16 (.r8 .r0) 0).wellFormed = false := by decide

theorem test_wf_refuses_ic_destination : (Instr.inc16 (.r16 .ic)).wellFormed = false := by decide

theorem test_wf_refuses_ic_in_narrow : (Instr.pop8 (.r16 .ic)).wellFormed = false := by decide

theorem test_wf_refuses_ic_second_of_swap : (Instr.swp16 (.r16 .w0) (.r16 .ic)).wellFormed = false := by decide

theorem test_wf_takes_ic_as_source : (Instr.str16 (.r16 .w0) (.r16 .ic)).wellFormed = true := by decide

/-! ### Decoding (R51, R52, R60): words written out bit by bit -/

theorem test_decode_alu_register :
    decode [0b00000000, 0b00010000] = .ok (.addr8 (.r8 .r0) (.r8 .r1), []) ∧
    decode [0b00000010, 0b10101001] = .ok (.addr16 (.r16 .w0) (.r16 .w1), []) ∧
    decode [0b00000100, 0b00110010] = .ok (.subr8 (.r8 .r2) (.r8 .r3), []) ∧
    decode [0b00000110, 0b10101001] = .ok (.subr16 (.r16 .w0) (.r16 .w1), []) ∧
    decode [0b00001000, 0b01010100] = .ok (.andr8 (.r8 .r4) (.r8 .r5), []) ∧
    decode [0b00001010, 0b11001001] = .ok (.andr16 (.r16 .w0) (.r16 .fl), []) ∧
    decode [0b00001100, 0b01110110] = .ok (.orr8 (.r8 .r6) (.r8 .r7), []) ∧
    decode [0b00001110, 0b11011000] = .ok (.orr16 (.r16 .vp) (.r16 .cr), []) ∧
    decode [0b00010000, 0b00110011] = .ok (.xorr8 (.r8 .r3) (.r8 .r3), []) ∧
    decode [0b00010010, 0b11101111] = .ok (.xorr16 (.r16 .zr) (.r16 .sp), []) :=
  ⟨rfl, rfl, rfl, rfl, rfl, rfl, rfl, rfl, rfl, rfl⟩

theorem test_decode_alu_immediate :
    decode [0b00000001, 0b00000000, 0b00000101] = .ok (.addi8 (.r8 .r0) 5, []) ∧
    decode [0b00000011, 0b00001110, 0b00000000, 0b00000001] = .ok (.addi16 (.r16 .sp) 256, []) ∧
    decode [0b00000101, 0b00000000, 0b00000001] = .ok (.subi8 (.r8 .r0) 1, []) ∧
    decode [0b00000111, 0b00001110, 0b00000010, 0b00000000] = .ok (.subi16 (.r16 .sp) 2, []) ∧
    decode [0b00001001, 0b00000100, 0b00001111] = .ok (.andi8 (.r8 .r4) 15, []) ∧
    decode [0b00001011, 0b00001100, 0b00000111, 0b00000000] = .ok (.andi16 (.r16 .fl) 7, []) ∧
    decode [0b00001101, 0b00000000, 0b10000000] = .ok (.ori8 (.r8 .r0) 128, []) ∧
    decode [0b00001111, 0b00001010, 0b00000000, 0b10000000] = .ok (.ori16 (.r16 .w1) 0x8000, []) ∧
    decode [0b00010001, 0b00000000, 0b11111111] = .ok (.xori8 (.r8 .r0) 255, []) ∧
    decode [0b00010011, 0b00001001, 0b00110100, 0b00010010] = .ok (.xori16 (.r16 .w0) 0x1234, []) :=
  ⟨rfl, rfl, rfl, rfl, rfl, rfl, rfl, rfl, rfl, rfl⟩

theorem test_decode_alu_unary_and_equality :
    decode [0b00010100, 0b00000111] = .ok (.not8 (.r8 .r7), []) ∧
    decode [0b00010110, 0b00001001] = .ok (.not16 (.r16 .w0), []) ∧
    decode [0b00011100, 0b00000000] = .ok (.inc8 (.r8 .r0), []) ∧
    decode [0b00011110, 0b00001010] = .ok (.inc16 (.r16 .w1), []) ∧
    decode [0b00100000, 0b00000001] = .ok (.dec8 (.r8 .r1), []) ∧
    decode [0b00100010, 0b00001001] = .ok (.dec16 (.r16 .w0), []) ∧
    decode [0b00011000, 0b01100111] = .ok (.eqr8 (.r8 .r7) (.r8 .r6), []) ∧
    decode [0b00011001, 0b00000000, 0b00001010] = .ok (.eqi8 (.r8 .r0) 10, []) ∧
    decode [0b00011010, 0b10011011] = .ok (.eqr16 (.r16 .ic) (.r16 .w0), []) ∧
    decode [0b00011011, 0b00001001, 0b11111110, 0b11111111] = .ok (.eqi16 (.r16 .w0) 0xFFFE, []) :=
  ⟨rfl, rfl, rfl, rfl, rfl, rfl, rfl, rfl, rfl, rfl⟩

theorem test_decode_load_store :
    decode [0b01000000, 0b01010010] = .ok (.str8 (.r8 .r2) (.r8 .r5), []) ∧
    decode [0b01001000, 0b10011110] = .ok (.str16 (.r16 .sp) (.r16 .w0), []) ∧
    decode [0b01000100, 0b00000001, 0b00000011] = .ok (.sti8 (.r8 .r1) 3, []) ∧
    decode [0b01001100, 0b00001001, 0b11101111, 0b10111110] = .ok (.sti16 (.r16 .w0) 0xBEEF, []) ∧
    decode [0b01000010, 0b00000000, 0b00000001, 0b00000011] = .ok (.stmr8 256 (.r8 .r3), []) ∧
    decode [0b01001010, 0b00000001, 0b10000000, 0b00001001] = .ok (.stmr16 0x8001 (.r16 .w0), []) ∧
    decode [0b01000110, 0b00000000, 0b00000001, 0b00011001] = .ok (.stm8 256 25, []) ∧
    decode [0b01010000, 0b00000000, 0b00000001, 0b00000010] = .ok (.ld8 (.r8 .r2) 256, []) ∧
    decode [0b01011000, 0b00000001, 0b10000000, 0b00001010] = .ok (.ld16 (.r16 .w1) 0x8001, []) ∧
    decode [0b01100000, 0b00010000] = .ok (.swp8 (.r8 .r0) (.r8 .r1), []) ∧
    decode [0b01101000, 0b11101001] = .ok (.swp16 (.r16 .w0) (.r16 .sp), []) :=
  ⟨rfl, rfl, rfl, rfl, rfl, rfl, rfl, rfl, rfl, rfl, rfl⟩

theorem test_decode_stack_and_variable :
    decode [0b10000000, 0b00000011] = .ok (.push8 (.r8 .r3), []) ∧
    decode [0b10001000, 0b00001110] = .ok (.push16 (.r16 .sp), []) ∧
    decode [0b10000100, 0b00101010] = .ok (.pushi8 42, []) ∧
    decode [0b10001100, 0b00110100, 0b00010010] = .ok (.pushi16 0x1234, []) ∧
    decode [0b10010000, 0b00000000] = .ok (.pop8 (.r8 .r0), []) ∧
    decode [0b10011000, 0b00001010] = .ok (.pop16 (.r16 .w1), []) ∧
    decode [0b10100000, 0b00000000] = .ok (.ldv8 (.r8 .r0), []) ∧
    decode [0b10101000, 0b00001001] = .ok (.ldv16 (.r16 .w0), []) ∧
    decode [0b10100100, 0b11111110] = .ok (.ldvi8 254, []) ∧
    decode [0b10101100, 0b11111111, 0b01111111] = .ok (.ldvi16 0x7FFF, []) ∧
    decode [0b10110000] = .ok (.ulv, []) :=
  ⟨rfl, rfl, rfl, rfl, rfl, rfl, rfl, rfl, rfl, rfl, rfl⟩

theorem test_decode_branch_and_call :
    decode [0b11000000, 0b00000111, 0b00000000] = .ok (.jmp 7, []) ∧
    decode [0b11001000, 0b00000101, 0b00000001] = .ok (.be 0x0105, []) ∧
    decode [0b11010000, 0b00000011, 0b00000000] = .ok (.bne 3, []) ∧
    decode [0b11011000, 0b00001001, 0b00000000] = .ok (.bg 9, []) ∧
    decode [0b11100000, 0b00001001, 0b00000000] = .ok (.bl 9, []) ∧
    decode [0b11101000, 0b00010000, 0b00000000] = .ok (.call 16, []) ∧
    decode [0b11101111] = .ok (.syscall, []) ∧
    decode [0b11110000] = .ok (.ret, []) ∧
    decode [0b11111000] = .ok (.reti, []) :=
  ⟨rfl, rfl, rfl, rfl, rfl, rfl, rfl, rfl, rfl⟩

theorem test_decode_leaves_the_rest : decode [0xB0, 0x15, 0x99] = .ok (.ulv, [0x15, 0x99]) := rfl

theorem test_decode_reserved_opcodes :
    decode [0x15, 0x00] = .error (.reservedOpcode 0x15) ∧ decode [0x24] = .error (.reservedOpcode 0x24) ∧
    decode [0x4E, 0, 0, 0, 0] = .error (.reservedOpcode 0x4E) ∧ decode [0x78] = .error (.reservedOpcode 0x78) ∧
    decode [0x94] = .error (.reservedOpcode 0x94) ∧ decode [0xB8] = .error (.reservedOpcode 0xB8) ∧
    decode [0xE9, 0, 0] = .error (.reservedOpcode 0xE9) ∧ decode [0xFF] = .error (.reservedOpcode 0xFF) :=
  ⟨rfl, rfl, rfl, rfl, rfl, rfl, rfl, rfl⟩

theorem test_decode_truncated :
    decode [] = .error .noByte ∧ decode [0x01, 0x00] = .error (.truncated 3) ∧
    decode [0x4A, 0xFF, 0xFF] = .error (.truncated 4) ∧ decode [0x14] = .error (.truncated 2) ∧
    decode [0xC8, 0x05] = .error (.truncated 3) :=
  ⟨rfl, rfl, rfl, rfl, rfl⟩

theorem test_decode_reserved_nibble :
    decode [0x14, 0x10] = .error (.reservedNibble 0x14 0x10) ∧
    decode [0x03, 0x1E, 0x00, 0x01] = .error (.reservedNibble 0x03 0x1E) ∧
    decode [0x50, 0x00, 0x80, 0x12] = .error (.reservedNibble 0x50 0x12) :=
  ⟨rfl, rfl, rfl⟩

/-- The opcode table numbers a row's bits from the least significant bit of its first byte. -/
theorem test_table_word : decodeTableWord 32 0x1234094C = some (.sti16 (.r16 .w0) 0x1234) := rfl

theorem test_table_word_reserved : decodeTableWord 16 0x1014 = none := rfl

/-! ### One step of each instruction (spec/95_test_vectors.md sections 3 to 6) -/

theorem test_addr8_wraps :
    seen (step (machine [0x00, 0x10] { rz with r0 := 0xC8, r1 := 0x64 } []))
      (fun t => (t.regs.r0, t.regs.ic, t.status)) = some (0x2C, 2, .halted) := by decide

theorem test_addr8_same_register :
    seen (step (machine [0x00, 0x00] { rz with r0 := 0x81 } []))
      (fun t => (t.regs.r0, t.regs.ic, t.status)) = some (0x02, 2, .halted) := by decide

theorem test_addr16_wraps :
    seen (step (machine [0x02, 0xA9] { rz with w0 := 0xFFFF, w1 := 2 } []))
      (fun t => (t.regs.w0, t.regs.ic, t.status)) = some (1, 2, .halted) := by decide

theorem test_addi8_wraps :
    seen (step (machine [0x01, 0x00, 0x05] { rz with r0 := 0xFE } []))
      (fun t => (t.regs.r0, t.regs.ic, t.status)) = some (3, 3, .halted) := by decide

theorem test_addi16_on_sp :
    seen (step (machine [0x03, 0x0E, 0x00, 0x01] { rz with sp := 0xFF80 } []))
      (fun t => (t.regs.sp, t.regs.ic, t.status)) = some (0x80, 4, .halted) := by decide

theorem test_subr8_borrows :
    seen (step (machine [0x04, 0x32] { rz with r2 := 5, r3 := 7 } []))
      (fun t => (t.regs.r2, t.regs.ic, t.status)) = some (0xFE, 2, .halted) := by decide

theorem test_subr16_borrows :
    seen (step (machine [0x06, 0xA9] { rz with w1 := 1 } []))
      (fun t => (t.regs.w0, t.regs.ic, t.status)) = some (0xFFFF, 2, .halted) := by decide

theorem test_subi8_borrows :
    seen (step (machine [0x05, 0x00, 0x01] rz []))
      (fun t => (t.regs.r0, t.regs.ic, t.status)) = some (0xFF, 3, .halted) := by decide

theorem test_subi16_on_sp :
    seen (step (machine [0x07, 0x0E, 0x02, 0x00] { rz with sp := 0x10 } []))
      (fun t => (t.regs.sp, t.regs.ic, t.status)) = some (0x0E, 4, .halted) := by decide

theorem test_andr8 :
    seen (step (machine [0x08, 0x54] { rz with r4 := 0xF0, r5 := 0x3C } []))
      (fun t => (t.regs.r4, t.regs.ic, t.status)) = some (0x30, 2, .halted) := by decide

theorem test_andr16 :
    seen (step (machine [0x0A, 0xA9] { rz with w0 := 0xFF00, w1 := 0x0FF0 } []))
      (fun t => (t.regs.w0, t.regs.ic, t.status)) = some (0x0F00, 2, .halted) := by decide

theorem test_andi8 :
    seen (step (machine [0x09, 0x04, 0x0F] { rz with r4 := 0xAB } []))
      (fun t => (t.regs.r4, t.regs.ic, t.status)) = some (0x0B, 3, .halted) := by decide

theorem test_andi16_on_fl :
    seen (step (machine [0x0B, 0x0C, 0x07, 0x00] { rz with fl := 0xFFFF } []))
      (fun t => (t.regs.fl, t.regs.ic, t.status)) = some (7, 4, .halted) := by decide

theorem test_orr8 :
    seen (step (machine [0x0C, 0x10] { rz with r0 := 0x0F, r1 := 0xF0 } []))
      (fun t => (t.regs.r0, t.regs.ic, t.status)) = some (0xFF, 2, .halted) := by decide

theorem test_orr16 :
    seen (step (machine [0x0E, 0xA9] { rz with w0 := 0x1200, w1 := 0x34 } []))
      (fun t => (t.regs.w0, t.regs.ic, t.status)) = some (0x1234, 2, .halted) := by decide

theorem test_ori8 :
    seen (step (machine [0x0D, 0x00, 0x80] { rz with r0 := 1 } []))
      (fun t => (t.regs.r0, t.regs.ic, t.status)) = some (0x81, 3, .halted) := by decide

theorem test_ori16 :
    seen (step (machine [0x0F, 0x0A, 0x00, 0x80] { rz with w1 := 1 } []))
      (fun t => (t.regs.w1, t.regs.ic, t.status)) = some (0x8001, 4, .halted) := by decide

theorem test_xorr8_clears :
    seen (step (machine [0x10, 0x33] { rz with r3 := 0x5A } []))
      (fun t => (t.regs.r3, t.regs.ic, t.status)) = some (0, 2, .halted) := by decide

theorem test_xorr16 :
    seen (step (machine [0x12, 0xA9] { rz with w0 := 0xAAAA, w1 := 0xFFFF } []))
      (fun t => (t.regs.w0, t.regs.ic, t.status)) = some (0x5555, 2, .halted) := by decide

theorem test_xori8 :
    seen (step (machine [0x11, 0x00, 0xFF] { rz with r0 := 0x0F } []))
      (fun t => (t.regs.r0, t.regs.ic, t.status)) = some (0xF0, 3, .halted) := by decide

theorem test_xori16 :
    seen (step (machine [0x13, 0x09, 0xFF, 0xFF] { rz with w0 := 0x1234 } []))
      (fun t => (t.regs.w0, t.regs.ic, t.status)) = some (0xEDCB, 4, .halted) := by decide

theorem test_not8 :
    seen (step (machine [0x14, 0x07] { rz with r7 := 0x5A } []))
      (fun t => (t.regs.r7, t.regs.ic, t.status)) = some (0xA5, 2, .halted) := by decide

theorem test_not16 :
    seen (step (machine [0x16, 0x09] rz []))
      (fun t => (t.regs.w0, t.regs.ic, t.status)) = some (0xFFFF, 2, .halted) := by decide

theorem test_eqr8_equal :
    seen (step (machine [0x18, 0x67] { rz with r7 := 50, r6 := 50 } []))
      (fun t => (t.regs.fl, t.regs.ic, t.status)) = some (1, 2, .halted) := by decide

theorem test_eqr8_is_unsigned :
    seen (step (machine [0x18, 0x10] { rz with r0 := 0xFF, r1 := 1, fl := 0xFFF0 } []))
      (fun t => (t.regs.fl, t.regs.ic, t.status)) = some (2, 2, .halted) := by decide

theorem test_eqr16_reads_ic :
    seen (step (machine [0x1A, 0x9B] rz []))
      (fun t => (t.regs.fl, t.regs.ic, t.status)) = some (1, 2, .halted) := by decide

theorem test_eqr16_less :
    seen (step (machine [0x1A, 0x9A] { rz with w1 := 1, w0 := 0x8000 } []))
      (fun t => (t.regs.fl, t.regs.ic, t.status)) = some (4, 2, .halted) := by decide

theorem test_eqi8_less :
    seen (step (machine [0x19, 0x00, 0x0A] { rz with r0 := 3 } []))
      (fun t => (t.regs.fl, t.regs.ic, t.status)) = some (4, 3, .halted) := by decide

theorem test_eqi8_equal :
    seen (step (machine [0x19, 0x00, 0x00] rz []))
      (fun t => (t.regs.fl, t.regs.ic, t.status)) = some (1, 3, .halted) := by decide

theorem test_eqi16_equal :
    seen (step (machine [0x1B, 0x09, 0xFF, 0xFF] { rz with w0 := 0xFFFF } []))
      (fun t => (t.regs.fl, t.regs.ic, t.status)) = some (1, 4, .halted) := by decide

theorem test_eqi16_on_sp :
    seen (step (machine [0x1B, 0x0E, 0x00, 0x00] rz []))
      (fun t => (t.regs.fl, t.regs.ic, t.status)) = some (1, 4, .halted) := by decide

theorem test_inc8_is_isolated :
    seen (step (machine [0x1C, 0x00] { rz with r0 := 0xFF, w0 := 0xFF } []))
      (fun t => (t.regs.r0, t.regs.w0)) = some (0, 0xFF) := by decide

theorem test_inc16_wraps :
    seen (step (machine [0x1E, 0x0A] { rz with w1 := 0xFFFF } []))
      (fun t => (t.regs.w1, t.regs.ic, t.status)) = some (0, 2, .halted) := by decide

theorem test_inc16_on_fixed_zero :
    seen (step (fixedZero (machine [0x1E, 0x0F] rz [])))
      (fun t => (t.read16 .zr, t.regs.ic)) = some (0, 2) := by decide

theorem test_dec8_wraps :
    seen (step (machine [0x20, 0x01] rz []))
      (fun t => (t.regs.r1, t.regs.ic, t.status)) = some (0xFF, 2, .halted) := by decide

theorem test_dec16 :
    seen (step (machine [0x22, 0x09] { rz with w0 := 0x100 } []))
      (fun t => (t.regs.w0, t.regs.ic, t.status)) = some (0xFF, 2, .halted) := by decide

theorem test_str8 :
    seen (step (machine [0x40, 0x52] { rz with r2 := 1, r5 := 9 } []))
      (fun t => (t.regs.r2, t.regs.ic, t.status)) = some (9, 2, .halted) := by decide

theorem test_str16_to_sp :
    seen (step (machine [0x48, 0x9E] { rz with w0 := 7 } []))
      (fun t => (t.regs.sp, t.regs.ic, t.status)) = some (7, 2, .halted) := by decide

theorem test_str16_reads_ic :
    seen (step (machine [0x48, 0xB9] { rz with w0 := 7 } []))
      (fun t => (t.regs.w0, t.regs.ic, t.status)) = some (0, 2, .halted) := by decide

theorem test_sti8 :
    seen (step (machine [0x44, 0x01, 0x03] rz []))
      (fun t => (t.regs.r1, t.regs.ic, t.status)) = some (3, 3, .halted) := by decide

theorem test_sti16_on_fl :
    seen (step (machine [0x4C, 0x0C, 0x02, 0x00] rz []))
      (fun t => (t.regs.fl, t.regs.ic, t.status)) = some (2, 4, .halted) := by decide

theorem test_sti16_on_vp :
    seen (step (machine [0x4C, 0x08, 0x10, 0x00] { rz with vp := 0x8000 } []))
      (fun t => (t.regs.vp, t.regs.ic, t.status)) = some (0x10, 4, .halted) := by decide

theorem test_stmr8 :
    seen (step (machine [0x42, 0x00, 0x01, 0x03] { rz with r3 := 0xAA } []))
      (fun t => (t.mem, t.regs.ic)) = some ([(0x100, 0xAA)], 4) := by decide

theorem test_stmr8_last_byte :
    seen (step (machine [0x42, 0xFF, 0xFF, 0x00] { rz with r0 := 7 } []))
      (fun t => (t.mem, t.regs.ic)) = some ([(0xFFFF, 7)], 4) := by decide

theorem test_stmr16_little_endian :
    seen (step (machine [0x4A, 0x00, 0x80, 0x09] { rz with w0 := 0x1234 } []))
      (fun t => t.mem) = some [(0x8000, 0x34), (0x8001, 0x12)] := by decide

theorem test_stmr16_at_the_end :
    failure (step (machine [0x4A, 0xFF, 0xFF, 0x09] { rz with w0 := 1 } [])) = some (.memoryBounds 0xFFFF 2) := by decide

theorem test_stm8 :
    seen (step (machine [0x46, 0x00, 0x01, 0x19] rz []))
      (fun t => (t.mem, t.regs.ic)) = some ([(0x100, 25)], 4) := by decide

theorem test_stm8_zero_removes_the_entry :
    seen (step (machine [0x46, 0x00, 0x01, 0x00] rz [(0x100, 7), (0x101, 3)]))
      (fun t => t.mem) = some [(0x101, 3)] := by decide

theorem test_ld8 :
    seen (step (machine [0x50, 0x00, 0x01, 0x02] rz [(0x100, 0x42)]))
      (fun t => (t.regs.r2, t.regs.ic, t.status)) = some (0x42, 4, .halted) := by decide

theorem test_ld16_little_endian :
    seen (step (machine [0x58, 0x00, 0x80, 0x0A] rz [(0x8000, 0x34), (0x8001, 0x12)]))
      (fun t => (t.regs.w1, t.regs.ic, t.status)) = some (0x1234, 4, .halted) := by decide

theorem test_ld16_into_ic :
    failure (step (machine [0x58, 0x00, 0x00, 0x0B] rz [])) = some (.icWrite 0 11) := by decide

theorem test_swp8 :
    seen (step (machine [0x60, 0x10] { rz with r0 := 1, r1 := 2 } []))
      (fun t => (t.regs.r0, t.regs.r1)) = some (2, 1) := by decide

theorem test_swp16_with_sp :
    seen (step (machine [0x68, 0xE9] { rz with w0 := 0x200, sp := 0x10 } []))
      (fun t => (t.regs.w0, t.regs.sp)) = some (0x10, 0x200) := by decide

theorem test_swp16_with_ic :
    failure (step (machine [0x68, 0xB9] { rz with w0 := 1 } [])) = some (.icWrite 0 11) := by decide

theorem test_push8 :
    seen (step (machine [0x80, 0x03] { rz with r3 := 7 } []))
      (fun t => (t.mem, t.regs.sp)) = some ([(0, 7)], 1) := by decide

theorem test_push8_wraps_sp :
    seen (step (machine [0x80, 0x00] { rz with r0 := 9, sp := 0xFFFF } []))
      (fun t => (t.mem, t.regs.sp)) = some ([(0xFFFF, 9)], 0) := by decide

theorem test_push16_pushes_old_sp :
    seen (step (machine [0x88, 0x0E] { rz with sp := 0x10 } []))
      (fun t => (t.byteAt 0x10, t.byteAt 0x11, t.regs.sp)) = some (0x10, 0, 0x12) := by decide

theorem test_push16_at_the_end :
    failure (step (machine [0x88, 0x09] { rz with w0 := 1, sp := 0xFFFF } [])) = some (.memoryBounds 0xFFFF 2) := by decide

theorem test_pushi8 :
    seen (step (machine [0x84, 0x2A] rz []))
      (fun t => (t.mem, t.regs.sp, t.regs.ic)) = some ([(0, 42)], 1, 2) := by decide

theorem test_pushi16 :
    seen (step (machine [0x8C, 0x34, 0x12] { rz with sp := 4 } []))
      (fun t => (t.mem, t.regs.sp, t.regs.ic)) = some ([(4, 0x34), (5, 0x12)], 6, 3) := by decide

theorem test_pop8 :
    seen (step (machine [0x90, 0x00] { rz with sp := 1 } [(0, 0x77)]))
      (fun t => (t.regs.r0, t.regs.sp)) = some (0x77, 0) := by decide

theorem test_pop8_wraps_sp :
    seen (step (machine [0x90, 0x00] rz [(0xFFFF, 5)]))
      (fun t => (t.regs.r0, t.regs.sp)) = some (5, 0xFFFF) := by decide

theorem test_pop16_wraps_sp :
    seen (step (machine [0x98, 0x09] rz [(0xFFFE, 0xCD), (0xFFFF, 0xAB)]))
      (fun t => (t.regs.w0, t.regs.sp)) = some (0xABCD, 0xFFFE) := by decide

theorem test_pop16_into_sp :
    seen (step (machine [0x98, 0x0E] { rz with sp := 2 } [(1, 0x40)]))
      (fun t => (t.regs.sp, t.regs.ic)) = some (0x4000, 2) := by decide

theorem test_ldv8 :
    seen (step (machine [0xA0, 0x00] { rz with r0 := 0x10 } []))
      (fun t => (t.regs.vp, t.regs.ic, t.status)) = some (0x8010, 2, .halted) := by decide

theorem test_ldv16_wraps :
    seen (step (machine [0xA8, 0x09] { rz with w0 := 0x8000 } []))
      (fun t => (t.regs.vp, t.regs.ic, t.status)) = some (0, 2, .halted) := by decide

theorem test_ldv16_reads_old_vp :
    seen (step (machine [0xA8, 0x08] rz []))
      (fun t => (t.regs.vp, t.regs.ic, t.status)) = some (0, 2, .halted) := by decide

theorem test_ldvi8_zero_extends :
    seen (step (machine [0xA4, 0xFF] rz []))
      (fun t => (t.regs.vp, t.regs.ic, t.status)) = some (0x80FF, 2, .halted) := by decide

theorem test_ldvi16 :
    seen (step (machine [0xAC, 0xFF, 0x7F] rz []))
      (fun t => (t.regs.vp, t.regs.ic, t.status)) = some (0xFFFF, 3, .halted) := by decide

theorem test_ulv :
    seen (step (machine [0xB0] { rz with vp := 0x8010 } []))
      (fun t => (t.regs.vp, t.regs.ic, t.status)) = some (0x8000, 1, .halted) := by decide

theorem test_jmp :
    seen (step (machine ([0xC0, 0x07, 0x00] ++ List.replicate 5 0) rz []))
      (fun t => (t.regs.ic, t.status)) = some (7, .running) := by decide

theorem test_jmp_to_the_end :
    seen (step (machine [0xC0, 0x03, 0x00] rz []))
      (fun t => (t.regs.ic, t.status)) = some (3, .halted) := by decide

theorem test_be_taken :
    seen (step (machine ([0xC8, 0x05, 0x00] ++ List.replicate 2 0) { rz with fl := 1 } []))
      (fun t => (t.regs.ic, t.status)) = some (5, .halted) := by decide

theorem test_be_reads_bit_0 :
    seen (step (machine ([0xC8, 0x05, 0x00] ++ List.replicate 2 0) { rz with fl := 0xFFFE } []))
      (fun t => (t.regs.ic, t.status)) = some (3, .running) := by decide

theorem test_bne_taken :
    seen (step (machine [0xD0, 0x00, 0x00] { rz with fl := 4 } []))
      (fun t => (t.regs.ic, t.status)) = some (0, .running) := by decide

theorem test_bne_not_taken :
    seen (step (machine [0xD0, 0x00, 0x00] { rz with fl := 1 } []))
      (fun t => (t.regs.ic, t.status)) = some (3, .halted) := by decide

theorem test_bg_taken :
    seen (step (machine ([0xD8, 0x09, 0x00] ++ List.replicate 6 0) { rz with fl := 2 } []))
      (fun t => (t.regs.ic, t.status)) = some (9, .halted) := by decide

theorem test_bg_not_taken :
    seen (step (machine ([0xD8, 0x09, 0x00] ++ List.replicate 6 0) { rz with fl := 5 } []))
      (fun t => (t.regs.ic, t.status)) = some (3, .running) := by decide

theorem test_bl_taken :
    seen (step (machine ([0xE0, 0x09, 0x00] ++ List.replicate 6 0) { rz with fl := 4 } []))
      (fun t => (t.regs.ic, t.status)) = some (9, .halted) := by decide

theorem test_bl_not_taken :
    seen (step (machine ([0xE0, 0x09, 0x00] ++ List.replicate 6 0) { rz with fl := 1 } []))
      (fun t => (t.regs.ic, t.status)) = some (3, .running) := by decide

theorem test_call_from_4 :
    seen (step (machine ([0x00, 0x00, 0x00, 0x00, 0xE8, 0x10, 0x00] ++ List.replicate 25 0) { rz with ic := 4 } []))
      (fun t => (t.mem, t.regs.sp, t.regs.ic)) = some ([(0, 7)], 2, 0x10) := by decide

theorem test_call_wraps_sp :
    seen (step (machine ([0xE8, 0x10, 0x00] ++ List.replicate 29 0) { rz with sp := 0xFFFE } []))
      (fun t => (t.mem, t.regs.sp, t.regs.ic)) = some ([(0xFFFE, 3)], 0, 0x10) := by decide

theorem test_ret :
    seen (step (machine ([0xF0] ++ List.replicate 7 0) { rz with sp := 2 } [(0, 7)]))
      (fun t => (t.regs.sp, t.regs.ic)) = some (0, 7) := by decide

theorem test_ret_overruns :
    failure (step (machine ([0xF0] ++ List.replicate 2 0) { rz with sp := 2 } [(0, 0x10)])) = some (.icOverrun 16) := by decide

theorem test_syscall_continues :
    seen (step (answered (machine [0xEF] { rz with cr := 1 } []) [.cont 0 [(5, 6)]]))
      (fun t => (t.regs.cr, t.mem, t.regs.sp, t.status)) = some (0, [(5, 6)], 0, .halted) := by decide

theorem test_syscall_exits :
    seen (step (answered (machine [0xEF] { rz with cr := 5 } []) [.exit 3]))
      (fun t => (t.regs.cr, t.regs.ic, t.status)) = some (5, 0, .exited 3) := by decide

theorem test_reti : failure (step (machine [0xF8] rz [])) = some (.unimplemented 0 0xF8) := by decide

/-! ### Faults and their order (spec/95_test_vectors.md section 7) -/

theorem test_reserved_opcode_at_the_end :
    failure (step (machine [0x15] rz [])) = some (.reservedEncoding 0 0x15 0x15) := by decide

theorem test_truncated :
    failure (step (machine [0x01, 0x00] { rz with r0 := 1 } [])) = some (.truncated 0 3) := by decide

theorem test_bad_selector : failure (step (machine [0x00, 0x90] rz [])) = some (.badSelector 0 9) := by decide

theorem test_nibble_before_class :
    failure (step (machine [0x14, 0x19] rz [])) = some (.reservedEncoding 0 0x14 0x19) := by decide

theorem test_class_before_ic : failure (step (machine [0x1C, 0x0B] rz [])) = some (.badSelector 0 11) := by decide

theorem test_ic_destination : failure (step (machine [0x1E, 0x0B] rz [])) = some (.icWrite 0 11) := by decide

theorem test_nibble_before_the_rest :
    failure (step (machine [0x03, 0x1E, 0x00, 0x01] rz [])) = some (.reservedEncoding 0 0x03 0x1E) := by decide

theorem test_host_error :
    failure (step (answered (machine [0xEF] rz []) [.error 9])) = some (.hostError 9) := by decide

theorem test_fault_codes :
    [Fault.reservedEncoding 0 0 0, .unimplemented 0 0, .badSelector 0 0, .truncated 0 0, .icOverrun 0, .icWrite 0 0,
      .memoryBounds 0 0, .hostError 0].map Fault.code = [1, 2, 3, 4, 5, 6, 7, 8] := rfl

/-! ### The start of a run (R147, R148) and what stands at reset -/

theorem test_start_empty : start (image [] 0 []) zeroDraw = .next State.reset := rfl

theorem test_start_past_the_end : failure (start (image [0x1C, 0x00] 3 []) zeroDraw) = some (.icOverrun 3) := by decide

theorem test_start_loads_variables :
    seen (start (image [0xB0] 0 [⟨2, 0, some [0x34, 0x12]⟩, ⟨1, 2, none⟩]) { zeroDraw with mem := [(0x8002, 9)] })
      (fun t => (t.mem, t.status)) = some ([(0x8000, 0x34), (0x8001, 0x12)], .running) := by decide

theorem test_start_refuses_a_gap :
    start (image [0xB0] 0 [⟨1, 1, none⟩]) zeroDraw = .refused .descriptorRefused := rfl

theorem test_reset_has_no_step : step State.reset = .refused .noStepEnabled := rfl

theorem test_placed_word_runs :
    seen (step (State.reset.withFetchWord 16 0x001C)) (fun t => (t.regs.r0, t.regs.ic)) = some (1, 2) := by decide

/-! ### Witnesses: for each obligation with hypotheses, states and operands that meet them, at the edges of its clauses -/

theorem witness_EncodeAndDecodeAreInverses : decode [0xB0, 0x15] = .ok (.ulv, [0x15]) := rfl

theorem witness_ReservedOpcodesFault :
    (machine [0xFF] rz []).status = .running ∧ (machine [0xFF] rz []).fetchBytes = [0xFF] ∧
      isReservedOpcode 0xFF = true ∧ isReservedOpcode 0x15 = true ∧ isReservedOpcode 0xF8 = false := by decide

theorem witness_ReservedNibbleFaults :
    (machine [0x14, 0x10] rz []).status = .running ∧ highNibble 0x10 ≠ 0 ∧
    opcodeForm 0x14 = some (.r .not8) ∧ (machine [0x14, 0x10] rz []).fetchBytes = [0x14, 0x10] ∧
    opcodeForm 0x01 = some (.ri8 .addi8) ∧ (machine [0x01, 0x10, 0] rz []).fetchBytes = [0x01, 0x10, 0] ∧
    opcodeForm 0x03 = some (.ri16 .addi16) ∧ (machine [0x03, 0x10, 0, 0] rz []).fetchBytes = [0x03, 0x10, 0, 0] ∧
    opcodeForm 0x42 = some (.ar .stmr8) ∧ (machine [0x42, 0, 0, 0x10] rz []).fetchBytes = [0x42, 0, 0, 0x10] :=
  ⟨rfl, by decide, rfl, rfl, rfl, rfl, rfl, rfl, rfl, rfl⟩

theorem witness_LengthIsFixedByOpcode :
    decode [0x01, 0x00, 0x05] = .ok (.addi8 (.r8 .r0) 5, []) ∧
      decode [0x01, 0x01, 0x06, 0x07] = .ok (.addi8 (.r8 .r1) 6, [0x07]) := ⟨rfl, rfl⟩

theorem witness_TruncatedInstructionFaults :
    (machine [0x01, 0x00] rz []).status = .running ∧ (machine [0x01, 0x00] rz []).fetchBytes = [0x01, 0x00] ∧
      opcodeForm 0x01 = some (.ri8 .addi8) ∧
      (machine [0x01, 0x00] rz []).params.prog.length < (machine [0x01, 0x00] rz []).regs.ic.toNat + 3 :=
  ⟨rfl, rfl, rfl, by decide⟩

/-- A running state that meets the invariant. -/
theorem running_inv (a : Byte) (prog : List Byte) (regs : RegFile) (cells : Memory) (hw : Memory.wf cells = true)
    (hl : (a :: prog).length ≤ Config.maxProgram) (hi : regs.ic.toNat < (a :: prog).length) :
    (machine (a :: prog) regs cells).Inv :=
  ⟨hw, hl, fun _ => hi, nofun, nofun⟩

theorem witness_OnlyJumpsOverrun :
    (machine [0xC0, 0x00, 0x01] rz []).Inv ∧ step (machine [0xC0, 0x00, 0x01] rz []) = .fault (.icOverrun 256) :=
  ⟨running_inv _ _ _ _ rfl (by decide) (by decide), rfl⟩

theorem witness_FieldChecksDecideFaults :
    firstFieldFault 0 (Instr.addr8 (.r8 .r0) (.r16 .w0)).operandFields = some (.badSelector 0 9) ∧
    firstFieldFault 0 (Instr.addr16 (.r16 .ic) (.r8 .r0)).operandFields = some (.icWrite 0 11) ∧
    firstFieldFault 0 (Instr.inc8 (.r16 .ic)).operandFields = some (.badSelector 0 11) ∧
    firstFieldFault 0 (Instr.swp16 (.r16 .w0) (.r16 .ic)).operandFields = some (.icWrite 0 11) ∧
    firstFieldFault 0 (Instr.eqr16 (.r16 .ic) (.r16 .ic)).operandFields = none := by decide

theorem witness_ExecutionFaultsHaveTheirSources :
    exec (.stmr16 65535 (.r16 .w0)) State.reset = .fault (.memoryBounds 65535 2) ∧
    exec .syscall (answered State.reset [.error 9]) = .fault (.hostError 9) ∧
    exec .reti State.reset = .fault (.unimplemented 0 0xF8) ∧
    exec (.inc8 (.r16 .w0)) State.reset = .fault (.badSelector 0 9) ∧
    exec (.inc16 (.r16 .ic)) State.reset = .fault (.icWrite 0 11) := ⟨rfl, rfl, rfl, rfl, rfl⟩

theorem witness_StepRunsDecodedInstruction :
    (machine [0x1C, 0x00] rz []).status = .running ∧
      decode (machine [0x1C, 0x00] rz []).fetchBytes = .ok (.inc8 (.r8 .r0), []) := ⟨rfl, rfl⟩

theorem witness_PlacedWordRunsNext :
    State.reset.regs.ic.toNat + 4 ≤ Config.maxProgram ∧ decodeTableWord 16 0x001C = some (.inc8 (.r8 .r0)) ∧
      (machine [] { rz with ic := 65531 } []).regs.ic.toNat + 4 ≤ Config.maxProgram := ⟨by decide, rfl, by decide⟩

theorem witness_CheckIcDecidesStatus :
    (machine [0xB0] { rz with ic := 1 } []).regs.ic.toNat = (machine [0xB0] rz []).params.prog.length ∧
    (machine [0xB0] rz []).params.prog.length < (machine [0xB0] { rz with ic := 2 } []).regs.ic.toNat ∧
    (machine [0xB0] rz []).regs.ic.toNat < (machine [0xB0] rz []).params.prog.length ∧
    ∃ t, step (machine [0xB0, 0xB0] rz []) = .next t ∧ t.status = .running := by
  exact ⟨by decide, by decide, by decide, _, rfl, rfl⟩

theorem witness_StepKeepsInvariant :
    (machine [0xB0] rz [(7, 1)]).Inv ∧ ∃ t, step (machine [0xB0] rz [(7, 1)]) = .next t :=
  ⟨running_inv _ _ _ _ (by decide) (by decide) (by decide), _, rfl⟩

theorem witness_InvariantHoldsAtStart : ∃ t, start (image [0xB0] 0 [⟨1, 0, none⟩]) zeroDraw = .next t := ⟨_, rfl⟩

theorem witness_StepsExactlyFromRunning :
    State.reset.status ≠ .running ∧ (machine [0xB0] rz []).status = .running := by decide

theorem witness_ProgramIsImmutable :
    (∃ t, exec (.stm8 0 1) State.reset = .next t) ∧ ∃ t, step (machine [0x46, 0, 0, 1] rz []) = .next t :=
  ⟨⟨_, rfl⟩, _, rfl⟩

theorem witness_FatalErrorsAreTerminal : step (machine [0xF8] rz []) = .fault (.unimplemented 0 0xF8) := rfl

theorem witness_FallThroughAdvancesByLength :
    (machine [0x1C, 0x00] rz []).Inv ∧ (machine [0x1C, 0x00] rz []).status = .running ∧
    decode (machine [0x1C, 0x00] rz []).fetchBytes = .ok (.inc8 (.r8 .r0), []) ∧
    (Instr.inc8 (.r8 .r0)).isJump = false ∧
    ∃ t, step (machine [0x1C, 0x00] rz []) = .next t ∧ ∀ code, t.status ≠ .exited code :=
  ⟨running_inv _ _ _ _ rfl (by decide) (by decide), rfl, rfl, rfl, _, rfl, nofun⟩

theorem witness_ZeroRegisterFollowsMode :
    State.reset.params.zrMode = .storage ∧ (fixedZero State.reset).params.zrMode = .hardwiredZero := by decide

theorem witness_CanonicalMemoryIsUnique :
    Memory.wf [(0, 1), (65535, 2)] = true ∧
      ∀ a, Memory.read [(0, 1), (65535, 2)] a = Memory.read [(0, 1), (65535, 2)] a := ⟨by decide, fun _ => rfl⟩

/-- The destinations of `RegisterAluResults16`, `ImmediateAluResults16`, `UnaryAluResults`, `RegisterStores`, `Loads`,
`Swaps`, `WordPops` and `PopsUndoPushes`: the hypothesis leaves seven of the eight 16-bit registers, `zr` among them. -/
theorem witness_wide_destinations :
    Reg16.vp ≠ .ic ∧ Reg16.w0 ≠ .ic ∧ Reg16.w1 ≠ .ic ∧ Reg16.fl ≠ .ic ∧ Reg16.cr ≠ .ic ∧ Reg16.sp ≠ .ic ∧
      Reg16.zr ≠ .ic := by decide

theorem witness_RegisterAluResults16 :
    Reg16.zr ≠ .ic ∧ ∃ t, exec (.addr16 (.r16 .zr) (.r16 .ic)) State.reset = .next t :=
  ⟨by decide, _, rfl⟩

theorem witness_ImmediateAluResults16 : Reg16.sp ≠ .ic ∧ ∃ t, exec (.subi16 (.r16 .sp) 1) State.reset = .next t :=
  ⟨by decide, _, rfl⟩

theorem witness_UnaryAluResults : Reg16.fl ≠ .ic ∧ ∃ t, exec (.not16 (.r16 .fl)) State.reset = .next t :=
  ⟨by decide, _, rfl⟩

theorem witness_EqualityIsIdempotent :
    (Instr.eqr8 (.r8 .r0) (.r8 .r1)).isEquality = true ∧
    (∃ t u, exec (.eqr8 (.r8 .r0) (.r8 .r1)) State.reset = .next t ∧ exec (.eqr8 (.r8 .r0) (.r8 .r1)) t = .next u) ∧
    ∀ f ∈ (Instr.eqr8 (.r8 .r0) (.r8 .r1)).operandFields, f.reg ≠ .r16 .fl ∧ f.reg ≠ .r16 .ic :=
  ⟨rfl, ⟨_, _, rfl, rfl⟩, by decide⟩

theorem witness_RegistersChangeOnlyAsListed :
    (∃ t, exec (.pop16 (.r16 .w0)) State.reset = .next t) ∧ Reg.r16 .cr ∉ (Instr.pop16 (.r16 .w0)).writes ∧
    (∃ t, exec .syscall (answered State.reset [.cont 1 []]) = .next t) ∧ Reg.r16 .w0 ∉ Instr.syscall.writes ∧
    Reg.r16 .w0 ≠ State.reset.params.nrSel.reg :=
  ⟨⟨_, rfl⟩, by decide, ⟨_, rfl⟩, by decide, by decide⟩

theorem witness_FlagsChangeOnlyByEquality :
    (∃ t, exec (.addi8 (.r8 .r0) 1) State.reset = .next t) ∧ (Instr.addi8 (.r8 .r0) 1).isEquality = false ∧
    (∀ f ∈ (Instr.addi8 (.r8 .r0) 1).operandFields, f.dest = true → f.reg ≠ .r16 .fl) ∧
    (∃ t, exec .syscall (answered State.reset [.cont 1 []]) = .next t) ∧ State.reset.params.nrSel.reg ≠ .r16 .fl :=
  ⟨⟨_, rfl⟩, rfl, by decide, ⟨_, rfl⟩, by decide⟩

theorem witness_WidthsAreIsolated :
    (Instr.push8 (.r8 .r0)).isWidth8 = true ∧ (∃ t, exec (.push8 (.r8 .r0)) State.reset = .next t) ∧
    (Instr.ldv16 (.r16 .w0)).isWidth16 = true ∧ (∃ t, exec (.ldv16 (.r16 .w0)) State.reset = .next t) ∧
    (Instr.push8 (.r8 .r0)).isEquality = false ∧ (Instr.push8 (.r8 .r0)).setsVp = false ∧
    (Instr.inc8 (.r8 .r0)).movesSp = false :=
  ⟨rfl, ⟨_, rfl⟩, rfl, ⟨_, rfl⟩, rfl, rfl, rfl⟩

theorem witness_OnlyListedInstructionsStore :
    (∃ t, exec (.pop8 (.r8 .r0)) State.reset = .next t) ∧ (Instr.pop8 (.r8 .r0)).storesToMemory = false ∧
      Instr.pop8 (.r8 .r0) ≠ .syscall := ⟨⟨_, rfl⟩, rfl, by decide⟩

theorem witness_OnlySyscallLeavesTheCore :
    (∃ t, exec .ret State.reset = .next t) ∧ Instr.ret ≠ .syscall := ⟨⟨_, rfl⟩, by decide⟩

theorem witness_RegisterStores : Reg16.sp ≠ .ic ∧ ∃ t, exec (.str16 (.r16 .sp) (.r16 .w0)) State.reset = .next t :=
  ⟨by decide, _, rfl⟩

theorem witness_WordStores : (65534 : Word) ≠ 65535 ∧ (65535 : Word) = 65535 ∧
    ∃ t, exec (.stmr16 65534 (.r16 .ic)) State.reset = .next t := ⟨by decide, rfl, _, rfl⟩

theorem witness_Loads : Reg16.zr ≠ .ic ∧ (65534 : Word) ≠ 65535 ∧
    ∃ t, exec (.ld16 (.r16 .zr) 65534) State.reset = .next t := ⟨by decide, by decide, _, rfl⟩

theorem witness_Swaps : Reg16.zr ≠ .ic ∧ Reg16.sp ≠ .ic ∧
    ∃ t, exec (.swp16 (.r16 .zr) (.r16 .sp)) State.reset = .next t := ⟨by decide, by decide, _, rfl⟩

theorem witness_WordPushes :
    (machine [] { rz with sp := 65534 } []).regs.sp ≠ 65535 ∧ (machine [] { rz with sp := 65535 } []).regs.sp = 65535 := by
  decide

theorem witness_WordPops :
    Reg16.sp ≠ .ic ∧ (machine [] rz []).regs.sp ≠ 1 ∧ (machine [] { rz with sp := 2 } []).regs.sp ≠ 1 ∧
      (machine [] { rz with sp := 65535 } []).regs.sp ≠ 1 ∧ (machine [] { rz with sp := 1 } []).regs.sp = 1 := by
  decide

theorem witness_PopsUndoPushes :
    Reg16.w0 ≠ .ic ∧ Reg16.w0 ≠ .sp ∧ Reg8.r0 ≠ .r7 ∧
      ∃ t, exec (.push16 (.r16 .sp)) (machine [] { rz with sp := 65534 } []) = .next t :=
  ⟨by decide, by decide, by decide, _, rfl⟩

theorem witness_JumpTargetsAreCheckedByTheLoop :
    (machine [0xC0, 0x02, 0x00] rz []).status = .running ∧
    (machine [0xC0, 0x02, 0x00] rz []).fetchBytes = encode (.jmp 2) ++ [] ∧ (2 : Word).toNat < 3 ∧
    (machine [0xC0, 0x03, 0x00] rz []).fetchBytes = encode (.jmp 3) ++ [] ∧ (3 : Word).toNat = 3 ∧
    (machine [0xC0, 0x04, 0x00] rz []).fetchBytes = encode (.jmp 4) ++ [] ∧ 3 < (4 : Word).toNat := by decide

theorem witness_CallPushesReturnAddress :
    (machine [] { rz with sp := 65534 } []).regs.sp ≠ 65535 ∧ (machine [] { rz with sp := 65535 } []).regs.sp = 65535 := by
  decide

theorem witness_RetPopsTarget :
    (machine [] rz []).regs.sp ≠ 1 ∧ (machine [] { rz with sp := 2 } []).regs.sp ≠ 1 ∧
      (machine [] { rz with sp := 1 } []).regs.sp = 1 := by decide

/-- Between the call and the ret the subroutine may have written elsewhere, as here to address 7. -/
theorem witness_RetReturnsPastCall :
    ∃ t : State, exec (.call 16) (machine [] { rz with sp := 65534 } []) = .next t ∧
      (t.memWrite8 7 1).regs.sp = t.regs.sp ∧ (t.memWrite8 7 1).byteAt 65534 = t.byteAt 65534 ∧
      (t.memWrite8 7 1).byteAt 65535 = t.byteAt 65535 := ⟨_, rfl, rfl, rfl, rfl⟩

theorem witness_SyscallContinues :
    (answered State.reset [.cont 0xFFFF [(65535, 1)]]).hostScript = [.cont 0xFFFF [(65535, 1)]] ∧
      Memory.wf [(65535, 1)] = true ∧ State.reset.params.nrSel.reg = .r16 .cr := by decide

/-- The call-number register may have class 8. -/
theorem witness_SyscallContinues_narrow :
    ({ State.reset with params := { Params.reset with nrSel := ⟨.r8 .r0, by decide⟩ } } : State).params.nrSel.reg =
      .r8 .r0 := rfl

theorem witness_SyscallExitAndErrorStop :
    (answered (machine [0xEF] rz []) [.exit 3]).status = .running ∧
    (answered (machine [0xEF] rz []) [.exit 3]).fetchBytes = [0xEF] ∧
    (answered (machine [0xEF] rz []) [.exit 3]).hostScript = [.exit 3] ∧
    (answered (machine [0xEF] rz []) [.error 9]).hostScript = [.error 9] := by decide

theorem witness_UnscriptedSyscallAsksHost : State.reset.hostScript = [] := rfl

theorem witness_RetiIsUnimplemented :
    (machine [0xF8] rz []).status = .running ∧ (machine [0xF8] rz []).fetchBytes = [0xF8] := by decide

theorem witness_StartFollowsResetSequence :
    65535 < (image (List.replicate 65536 0) 0 []).prog.length ∧
    (image [0xB0] 0 []).prog.length ≤ 65535 ∧
    descriptorOk 0 (image [0xB0] 0 [⟨1, 1, none⟩]).descriptor = false ∧
    descriptorOk 0 (image [0xB0] 0 [⟨1, 0, none⟩]).descriptor = true ∧
    (image [0xB0] 2 []).prog.length < (image [0xB0] 2 []).entry.toNat ∧
    (image [0xB0] 1 []).entry.toNat ≤ (image [0xB0] 1 []).prog.length :=
  ⟨by rw [image, List.length_replicate]; decide, by decide, by decide, by decide, by decide, by decide⟩

theorem witness_LoaderPlacesVariables :
    (∃ t, start (image [0xB0] 0 [⟨2, 0, some [0x34, 0x12]⟩, ⟨1, 2, none⟩]) zeroDraw = .next t) ∧
    (⟨1, 2, none⟩ : Variable) ∈ (image [0xB0] 0 [⟨2, 0, some [0x34, 0x12]⟩, ⟨1, 2, none⟩]).descriptor ∧
    (∀ v ∈ (image [0xB0] 0 [⟨2, 0, some [0x34, 0x12]⟩, ⟨1, 2, none⟩]).descriptor,
      ¬(32768 + v.offset ≤ 32771 ∧ 32771 < 32768 + v.offset + v.size)) :=
  ⟨⟨_, rfl⟩, by decide, by decide⟩

end Sys2Proof.Tests
end

section
/-! Selectors (spec/10_state.md R14, R15) and the zero register (R24). -/
namespace Sys2Proof

/-- The class of a register is 8 exactly when its selector code is at most 7 (R15). -/
theorem Reg.is8_eq_selector_le (r : Reg) : r.is8 = decide (r.selector.toNat ≤ 7) := by
  cases r with
  | r8 g => cases g <;> rfl
  | r16 h => cases h <;> rfl

/-- The register that a code names has class 8 exactly when the code is at most 7. -/
theorem Reg.is8_ofSelector (n : BitVec 4) : (Reg.ofSelector n).is8 = decide (n.toNat ≤ 7) := by
  rw [Reg.is8_eq_selector_le, Reg.selector_ofSelector]

/-- Settles O8: the table of codes is evaluated, and the class is read off the code a register has. -/
theorem selectorsNameRegisters : Obligations.SelectorsNameRegisters :=
  ⟨rfl, Reg.ofSelector_selector, Reg.is8_ofSelector⟩

namespace Machine

/-- Only HardwiredZero fixes `zr` (R24). -/
theorem State.zrFixed_of_storage {s : State} (hm : s.params.zrMode = .storage) (h : Reg16) : s.zrFixed h = false := by
  simp [State.zrFixed, hm]

theorem State.zrFixed_of_hardwiredZero {s : State} (hm : s.params.zrMode = .hardwiredZero) : s.zrFixed .zr = true :=
  (s.zrFixed_iff .zr).mpr ⟨rfl, hm⟩

theorem State.read16_of_zrFixed {s : State} {h : Reg16} (hz : s.zrFixed h = true) : s.read16 h = 0 :=
  if_pos hz

theorem State.write16_of_zrFixed {s : State} {h : Reg16} (hz : s.zrFixed h = true) (v : Word) : s.write16 h v = s :=
  if_pos hz

/-- A register whose stored value is 0 reads 0, fixed or not. -/
theorem State.read16_of_stored_zero {s : State} {h : Reg16} (h0 : s.regs.get16 h = 0) : s.read16 h = 0 := by
  unfold State.read16
  split
  · rfl
  · exact h0

/-- A 16-bit register takes an immediate (R106), for every destination that passes the check of R55. -/
theorem exec_sti16_r16 (s : State) {h : Reg16} (hic : h ≠ .ic) (imm : Word) :
    exec (.sti16 (.r16 h) imm) s = .next ((s.write16 h imm).fell 4) :=
  if_neg hic

end Machine

open Machine

/-- Settles O20: by mode, from what a read and a write of `zr` do when it is fixed and when it is not. -/
theorem zeroRegisterFollowsMode : Obligations.ZeroRegisterFollowsMode := by
  intro s v
  refine ⟨fun hm => ?storageReadsBack, fun hm => ?fixedIsZero, fun imm hm => ?fixedStore, fun mode => ?resetReads⟩
  case storageReadsBack =>
    rw [State.write16_read16, if_pos rfl, State.zrFixed_of_storage hm]
    rfl
  case fixedIsZero =>
    have hz := State.zrFixed_of_hardwiredZero hm
    exact ⟨State.read16_of_zrFixed hz, State.write16_of_zrFixed hz v⟩
  case fixedStore =>
    rw [exec_sti16_r16 s (by decide), State.write16_of_zrFixed (State.zrFixed_of_hardwiredZero hm)]
  case resetReads => exact State.read16_of_stored_zero rfl

end Sys2Proof
end

section
/-! What holds of every next state: a fault leaves none, so a claim passes through each shared operation to the state
that the operation goes on with. From it follow the frame of all instructions but syscall, and the parameters of the run
(R31). -/
namespace Sys2Proof.Machine

/-- `P` holds of the next state, if the result is one. -/
def Ensures (P : State → Prop) (r : Result) : Prop := ∀ t, r = .next t → P t

/-! ### Ensuring, through each shared operation -/

theorem ensures_next {P : State → Prop} {t : State} (h : P t) : Ensures P (.next t) := by
  intro u hu
  injection hu with hu
  exact hu ▸ h

theorem ensures_fault (P : State → Prop) (f : Fault) : Ensures P (.fault f) := nofun

/-- A check that faults leaves only the case in which it passes. -/
theorem ensures_ite_fault {P : State → Prop} {c : Prop} [Decidable c] {f : Fault} {r : Result}
    (h : ¬c → Ensures P r) : Ensures P (if c then .fault f else r) := by
  split
  · exact ensures_fault P f
  · exact h ‹_›

theorem withReg8_ensures {P : State → Prop} {r : Reg} {s : State} {k : Reg8 → Result}
    (h : ∀ g, r = .r8 g → Ensures P (k g)) : Ensures P (withReg8 r s k) := by
  intro t ht
  obtain ⟨g, hr, hk⟩ := withReg8_next ht
  exact h g hr t hk

theorem withReg16_ensures {P : State → Prop} {r : Reg} {s : State} {k : Reg16 → Result}
    (h : ∀ d, r = .r16 d → Ensures P (k d)) : Ensures P (withReg16 r s k) := by
  intro t ht
  obtain ⟨d, hr, hk⟩ := withReg16_next ht
  exact h d hr t hk

theorem withDest16_ensures {P : State → Prop} {r : Reg} {s : State} {k : Reg16 → Result}
    (h : ∀ d, r = .r16 d → d ≠ .ic → Ensures P (k d)) : Ensures P (withDest16 r s k) := by
  intro t ht
  obtain ⟨d, hr, hd, hk⟩ := withDest16_next ht
  exact h d hr hd t hk

theorem State.memRead16_ensures {P : State → Prop} {s : State} {a : Word} {k : Word → Result}
    (h : a ≠ 65535 → Ensures P (k (le16 (s.byteAt a.toNat) (s.byteAt (a.toNat + 1))))) :
    Ensures P (s.memRead16 a k) := by
  rw [State.memRead16_eq]
  exact ensures_ite_fault h

theorem State.memWrite16_ensures {P : State → Prop} {s : State} {a v : Word} {k : State → Result}
    (h : a ≠ 65535 → Ensures P (k (s.store16 a v))) : Ensures P (s.memWrite16 a v k) := by
  rw [State.memWrite16_eq]
  exact ensures_ite_fault h

theorem State.push16_ensures {P : State → Prop} {s : State} {v : Word} {k : State → Result}
    (h : s.regs.sp ≠ 65535 → Ensures P (k ((s.store16 s.regs.sp v).setSp (s.regs.sp + 2)))) :
    Ensures P (s.push16 v k) :=
  State.memWrite16_ensures h

theorem State.pop16_ensures {P : State → Prop} {s : State} {k : State → Word → Result}
    (h : s.regs.sp - 2 ≠ 65535 → Ensures P (k (s.setSp (s.regs.sp - 2))
      (le16 (s.byteAt (s.regs.sp - 2).toNat) (s.byteAt ((s.regs.sp - 2).toNat + 1))))) :
    Ensures P (s.pop16 k) :=
  State.memRead16_ensures h

theorem branchIf_ensures {P : State → Prop} {taken : Bool} {t : Word} {s : State} (hj : P (s.jumped t))
    (hf : P (s.fell 3)) : Ensures P (branchIf taken t s) := by
  refine ensures_next ?_
  split
  · exact hj
  · exact hf

/-! ### `RestKept`, through each update of registers or memory -/

section
variable (s t : State)

@[simp] theorem restKept_refl : RestKept s s := ⟨rfl, rfl, rfl, rfl⟩

@[simp] theorem restKept_write8 (g : Reg8) (v : Byte) : RestKept s (t.write8 g v) ↔ RestKept s t := Iff.rfl

@[simp] theorem restKept_write16 (d : Reg16) (v : Word) : RestKept s (t.write16 d v) ↔ RestKept s t := by
  simp [RestKept]

@[simp] theorem restKept_setFl (v : Word) : RestKept s (t.setFl v) ↔ RestKept s t := Iff.rfl

@[simp] theorem restKept_setSp (v : Word) : RestKept s (t.setSp v) ↔ RestKept s t := Iff.rfl

@[simp] theorem restKept_setVp (v : Word) : RestKept s (t.setVp v) ↔ RestKept s t := Iff.rfl

@[simp] theorem restKept_memWrite8 (a : Word) (v : Byte) : RestKept s (t.memWrite8 a v) ↔ RestKept s t := Iff.rfl

@[simp] theorem restKept_store16 (a v : Word) : RestKept s (t.store16 a v) ↔ RestKept s t := Iff.rfl

@[simp] theorem restKept_push8 (v : Byte) : RestKept s (t.push8 v) ↔ RestKept s t := Iff.rfl

@[simp] theorem restKept_fell (n : Nat) : RestKept s (t.fell n) ↔ RestKept s t := Iff.rfl

@[simp] theorem restKept_jumped (a : Word) : RestKept s (t.jumped a) ↔ RestKept s t := Iff.rfl

end

/-- An instruction other than syscall updates registers and memory only; its checks are passed through in the order in
which it makes them (R28, R31). -/
theorem exec_restKept {i : Instr} (hi : i ≠ .syscall) (s : State) : Ensures (RestKept s) (exec i s) := by
  cases i with
  | syscall => exact absurd rfl hi
  | reti => exact ensures_fault _ _
  -- Results in a register: the ALU, register moves and loads
  | addr8 | subr8 | andr8 | orr8 | xorr8 | str8 | swp8 | eqr8 =>
    exact withReg8_ensures fun _ _ => withReg8_ensures fun _ _ => ensures_next (by simp)
  | addi8 | subi8 | andi8 | ori8 | xori8 | not8 | inc8 | dec8 | sti8 | ld8 | eqi8 =>
    exact withReg8_ensures fun _ _ => ensures_next (by simp)
  | addr16 | subr16 | andr16 | orr16 | xorr16 | str16 =>
    exact withDest16_ensures fun _ _ _ => withReg16_ensures fun _ _ => ensures_next (by simp)
  | addi16 | subi16 | andi16 | ori16 | xori16 | not16 | inc16 | dec16 | sti16 =>
    exact withDest16_ensures fun _ _ _ => ensures_next (by simp)
  | swp16 => exact withDest16_ensures fun _ _ _ => withDest16_ensures fun _ _ _ => ensures_next (by simp)
  | ld16 => exact withDest16_ensures fun _ _ _ => State.memRead16_ensures fun _ => ensures_next (by simp)
  | eqr16 => exact withReg16_ensures fun _ _ => withReg16_ensures fun _ _ => ensures_next (by simp)
  -- One register read, and at most one byte stored
  | stmr8 | push8 | pop8 | ldv8 => exact withReg8_ensures fun _ _ => ensures_next (by simp)
  | eqi16 | ldv16 => exact withReg16_ensures fun _ _ => ensures_next (by simp)
  | stm8 | pushi8 | ldvi8 | ldvi16 | ulv | jmp => exact ensures_next (by simp)
  -- Two-byte accesses to memory
  | stmr16 => exact withReg16_ensures fun _ _ => State.memWrite16_ensures fun _ => ensures_next (by simp)
  | push16 => exact withReg16_ensures fun _ _ => State.push16_ensures fun _ => ensures_next (by simp)
  | pushi16 =>
    simp only [exec, execPushi16]
    exact State.push16_ensures fun _ => ensures_next (by simp)
  | call =>
    simp only [exec, execCall]
    exact State.push16_ensures fun _ => ensures_next (by simp)
  | pop16 => exact withDest16_ensures fun _ _ _ => State.pop16_ensures fun _ => ensures_next (by simp)
  | ret =>
    simp only [exec, execRet]
    exact State.pop16_ensures fun _ => ensures_next (by simp)
  | be | bne | bg | bl => exact branchIf_ensures (by simp) (by simp)

/-! ### The parameters of the run (R31) -/

/-- The host answers with a result and memory or with an exit, and neither reaches PROG (R129). -/
theorem execSyscall_params {s t : State} (h : execSyscall s = .next t) : t.params = s.params := by
  obtain ⟨v, mem, -, rfl⟩ | ⟨code, -, rfl⟩ := execSyscall_next h
  · simp
  · simp

theorem exec_params {i : Instr} {s t : State} (h : exec i s = .next t) : t.params = s.params := by
  by_cases hi : i = .syscall
  · subst hi
    exact execSyscall_params h
  · obtain ⟨-, hparams, -, -⟩ := exec_restKept hi s t h
    exact hparams

/-- CheckIC writes the status only (R73). -/
theorem checkIC_params {s t : State} (h : checkIC s = .next t) : t.params = s.params := by
  obtain ⟨-, rfl⟩ | ⟨-, rfl⟩ := checkIC_next h
  · rfl
  · rfl

theorem afterExec_exec_params {i : Instr} {s t : State} (h : afterExec (exec i s) = .next t) : t.params = s.params := by
  obtain ⟨u, hu, ⟨-, hcheck⟩ | ⟨-, rfl⟩⟩ := afterExec_next h
  · exact (checkIC_params hcheck).trans (exec_params hu)
  · exact exec_params hu

theorem step_params {s t : State} (h : step s = .next t) : t.params = s.params := by
  obtain ⟨-, ⟨i, rest, -, hexec⟩ | ⟨-, hcheck⟩⟩ := step_next h
  · exact afterExec_exec_params hexec
  · exact checkIC_params hcheck

end Sys2Proof.Machine

namespace Sys2Proof

open Machine

/-- Settles O17: every instruction but syscall keeps all that is outside registers and memory; a syscall and the loop's
check keep the parameters. -/
theorem programIsImmutable : Obligations.ProgramIsImmutable :=
  ⟨fun _ _ _ => exec_params, fun _ _ => step_params⟩

end Sys2Proof
end

section
/-! The reserved nibble of a single-register byte (spec/30_encoding.md R53), from the decoder to the step. -/
namespace Sys2Proof

open Machine

/-- The operand bytes after an opcode byte of the map are read by its format (R51). -/
theorem decode_of_opcodeForm {op : Byte} {f : Form} (hf : opcodeForm op = some f) (rest : List Byte) :
    decode (op :: rest) = f.parse op rest := by
  simp only [decode, hf]

theorem singleReg_of_highNibble_ne {b : Byte} (hb : highNibble b ≠ 0) (op : Byte) (k : Reg → Instr)
    (rest : List Byte) : singleReg op b k rest = .error (.reservedNibble op b) :=
  if_neg hb

namespace Machine

/-- Bytes that do not decode leave a Running state by the fault of the decoder (R72). -/
theorem step_of_decode_error {s : State} {e : DecodeFault} (hr : s.status = .running)
    (hd : decode s.fetchBytes = .error e) : step s = decodeFault e s := by
  simp only [step, loopStep, hr, fetchExec, hd]

/-- Operand bytes with a reserved nibble stop the step with ReservedEncoding (R53, R132). -/
theorem step_of_reservedNibble {s : State} {op b : Byte} {f : Form} {rest : List Byte} (hr : s.status = .running)
    (hf : opcodeForm op = some f) (hbytes : s.fetchBytes = op :: rest)
    (hparse : f.parse op rest = .error (.reservedNibble op b)) :
    step s = .fault (.reservedEncoding s.regs.ic op b) := by
  have hd : decode s.fetchBytes = .error (.reservedNibble op b) := by
    rw [hbytes, decode_of_opcodeForm hf, hparse]
  exact step_of_decode_error hr hd

end Machine

/-- Settles O3: each of the four formats hands its register byte to `singleReg`, which refuses the high nibble. -/
theorem reservedNibbleFaults : Obligations.ReservedNibbleFaults := by
  intro s op b rest hr hb
  have refuses := singleReg_of_highNibble_ne hb op
  refine ⟨fun k hf hbytes => ?r, fun k x hf hbytes => ?ri8, fun k x y hf hbytes => ?ri16, fun k x y hf hbytes => ?ar⟩
  case r => exact step_of_reservedNibble hr hf hbytes (refuses k rest)
  case ri8 => exact step_of_reservedNibble hr hf hbytes (refuses (fun a => k a x) rest)
  case ri16 => exact step_of_reservedNibble hr hf hbytes (refuses (fun a => k a (le16 x y)) rest)
  case ar => exact step_of_reservedNibble hr hf hbytes (refuses (k (le16 x y)) rest)

end Sys2Proof
end

section
/-! The operand-field checks (spec/30_encoding.md R54, R55): well-formedness read off the table of fields, and the
checks of each instruction followed through its fields in byte order. -/
namespace Sys2Proof

open Machine

/-! ### Well-formedness, field by field -/

/-- The field names a register that its width and its role admit (R54, R55). -/
def OperandField.passes (f : OperandField) : Bool :=
  if f.wide then (if f.dest then f.reg.isDest16 else f.reg.is16) else f.reg.is8

/-- A field raises no fault exactly when it passes (R75). -/
theorem OperandField.fault_eq_none_iff (ic : Word) (f : OperandField) : f.fault ic = none ↔ f.passes = true := by
  obtain ⟨r, wide, dest⟩ := f
  cases wide with
  | false => cases r <;> simp [fault, passes, Reg.is16, Reg.is8]
  | true =>
    cases dest with
    | false => cases r <;> simp [fault, passes, Reg.is16]
    | true => cases r <;> simp [fault, passes, Reg.is16, Reg.isDest16]

/-- An instruction is well-formed when all its register fields pass. -/
theorem Instr.wellFormed_eq_all_passes (i : Instr) : i.wellFormed = i.operandFields.all OperandField.passes := by
  cases i with
  -- No register field
  | stm8 | pushi8 | pushi16 | ldvi8 | ldvi16 | ulv | jmp | be | bne | bg | bl | call | syscall | ret | reti => rfl
  -- One or two
  | _ => simp [wellFormed, operandFields, OperandField.passes]

theorem firstFieldFault_eq_none_iff (ic : Word) (i : Instr) :
    firstFieldFault ic i.operandFields = none ↔ i.wellFormed = true := by
  simp only [firstFieldFault, List.findSome?_eq_none_iff, OperandField.fault_eq_none_iff,
    i.wellFormed_eq_all_passes, List.all_eq_true]

/-! ### Results that no field check raised -/

namespace Machine

/-- The result is neither of the two faults of the field checks (R54, R55). -/
def NoFieldFault (r : Result) : Prop :=
  ∀ ic sel, r ≠ .fault (.badSelector ic sel) ∧ r ≠ .fault (.icWrite ic sel)

theorem noFieldFault_next (t : State) : NoFieldFault (.next t) := fun _ _ => ⟨nofun, nofun⟩

theorem noFieldFault_memoryBounds (a : Word) (n : Nat) : NoFieldFault (.fault (.memoryBounds a n)) :=
  fun _ _ => ⟨nofun, nofun⟩

theorem State.memRead16_noFieldFault {s : State} {a : Word} {k : Word → Result} (h : ∀ v, NoFieldFault (k v)) :
    NoFieldFault (s.memRead16 a k) := by
  rw [State.memRead16_eq]
  split
  · exact noFieldFault_memoryBounds a 2
  · exact h _

theorem State.memWrite16_noFieldFault {s : State} {a : Word} (v : Word) {k : State → Result}
    (h : ∀ t, NoFieldFault (k t)) : NoFieldFault (s.memWrite16 a v k) := by
  rw [State.memWrite16_eq]
  split
  · exact noFieldFault_memoryBounds a 2
  · exact h _

theorem State.push16_noFieldFault {s : State} (v : Word) {k : State → Result} (h : ∀ t, NoFieldFault (k t)) :
    NoFieldFault (s.push16 v k) :=
  State.memWrite16_noFieldFault v fun _ => h _

theorem State.pop16_noFieldFault {s : State} {k : State → Word → Result} (h : ∀ t v, NoFieldFault (k t v)) :
    NoFieldFault (s.pop16 k) :=
  State.memRead16_noFieldFault fun _ => h _ _

/-- A syscall's only fault is HostError (R136). -/
theorem execSyscall_noFieldFault (s : State) : NoFieldFault (execSyscall s) := by
  intro ic sel
  constructor
  all_goals
    intro h
    obtain ⟨_, _, hf⟩ := execSyscall_fault h
    cases hf

/-! ### Checking fields in byte order -/

/-- The result is the fault of the first of the fields that fails, or, where none does, no field check's fault. -/
def FieldsDecide (s : State) (fs : List OperandField) (r : Result) : Prop :=
  (∀ f, firstFieldFault s.regs.ic fs = some f → r = .fault f) ∧
    (firstFieldFault s.regs.ic fs = none → NoFieldFault r)

section
variable {s : State} {fs : List OperandField} {x : OperandField} {r : Result}

theorem fieldsDecide_nil (h : NoFieldFault r) : FieldsDecide s [] r := ⟨nofun, fun _ => h⟩

/-- A field that fails gives its own fault, whatever follows. -/
theorem fieldsDecide_cons_of_fault {f : Fault} (hx : x.fault s.regs.ic = some f) :
    FieldsDecide s (x :: fs) (.fault f) := by
  simp [FieldsDecide, firstFieldFault, hx]

/-- A field that passes leaves the result to the fields after it. -/
theorem fieldsDecide_cons_of_none (hx : x.fault s.regs.ic = none) (h : FieldsDecide s fs r) :
    FieldsDecide s (x :: fs) r := by
  simpa [FieldsDecide, firstFieldFault, hx] using h

end

section
variable {s : State} {fs : List OperandField} (r : Reg)

/-- `withReg8` makes the check of a width-8 field, source or destination. -/
theorem withReg8_fieldsDecide {dest : Bool} {k : Reg8 → Result} (h : ∀ g, FieldsDecide s fs (k g)) :
    FieldsDecide s (⟨r, false, dest⟩ :: fs) (withReg8 r s k) := by
  cases r with
  | r8 g => exact fieldsDecide_cons_of_none (by simp [OperandField.fault, Reg.is16]) (h g)
  | r16 d => exact fieldsDecide_cons_of_fault rfl

/-- `withReg16` makes the check of a width-16 field that is not a destination. -/
theorem withReg16_fieldsDecide {k : Reg16 → Result} (h : ∀ d, FieldsDecide s fs (k d)) :
    FieldsDecide s (⟨r, true, false⟩ :: fs) (withReg16 r s k) := by
  cases r with
  | r8 g => exact fieldsDecide_cons_of_fault rfl
  | r16 d => exact fieldsDecide_cons_of_none rfl (h d)

/-- `withDest16` makes the check of a width-16 destination, the class before `ic`. -/
theorem withDest16_fieldsDecide {k : Reg16 → Result} (h : ∀ d, FieldsDecide s fs (k d)) :
    FieldsDecide s (⟨r, true, true⟩ :: fs) (withDest16 r s k) := by
  cases r with
  | r8 g => exact fieldsDecide_cons_of_fault rfl
  | r16 d =>
    by_cases hd : d = .ic
    · subst hd
      exact fieldsDecide_cons_of_fault rfl
    · rw [withDest16_r16, if_neg hd]
      exact fieldsDecide_cons_of_none (by simp [OperandField.fault, Reg.is16, hd]) (h d)

end

/-- Every instruction checks its register fields in byte order before it does anything else (R75, R134). -/
theorem exec_fieldsDecide (i : Instr) (s : State) : FieldsDecide s i.operandFields (exec i s) := by
  have hnext : ∀ t, FieldsDecide s [] (.next t) := fun t => fieldsDecide_nil (noFieldFault_next t)
  cases i with
  -- Two fields
  | addr8 a b | subr8 a b | andr8 a b | orr8 a b | xorr8 a b | str8 a b | swp8 a b | eqr8 a b =>
    exact withReg8_fieldsDecide a fun _ => withReg8_fieldsDecide b fun _ => hnext _
  | addr16 a b | subr16 a b | andr16 a b | orr16 a b | xorr16 a b | str16 a b =>
    exact withDest16_fieldsDecide a fun _ => withReg16_fieldsDecide b fun _ => hnext _
  | eqr16 a b => exact withReg16_fieldsDecide a fun _ => withReg16_fieldsDecide b fun _ => hnext _
  | swp16 a b => exact withDest16_fieldsDecide a fun _ => withDest16_fieldsDecide b fun _ => hnext _
  -- One field
  | addi8 a | subi8 a | andi8 a | ori8 a | xori8 a | sti8 a | not8 a | inc8 a | dec8 a | pop8 a | ld8 a | eqi8 a
  | push8 a | ldv8 a | stmr8 _ a => exact withReg8_fieldsDecide a fun _ => hnext _
  | addi16 a | subi16 a | andi16 a | ori16 a | xori16 a | sti16 a | not16 a | inc16 a | dec16 a =>
    exact withDest16_fieldsDecide a fun _ => hnext _
  | eqi16 a | ldv16 a => exact withReg16_fieldsDecide a fun _ => hnext _
  -- One field, then a two-byte access
  | pop16 a => exact withDest16_fieldsDecide a fun _ =>
      fieldsDecide_nil (State.pop16_noFieldFault fun _ _ => noFieldFault_next _)
  | ld16 a => exact withDest16_fieldsDecide a fun _ =>
      fieldsDecide_nil (State.memRead16_noFieldFault fun _ => noFieldFault_next _)
  | push16 a => exact withReg16_fieldsDecide a fun _ =>
      fieldsDecide_nil (State.push16_noFieldFault _ fun _ => noFieldFault_next _)
  | stmr16 _ a => exact withReg16_fieldsDecide a fun _ =>
      fieldsDecide_nil (State.memWrite16_noFieldFault _ fun _ => noFieldFault_next _)
  -- No field
  | stm8 | pushi8 | ldvi8 | ldvi16 | ulv | jmp | be | bne | bg | bl => exact hnext _
  | pushi16 imm => exact fieldsDecide_nil (State.push16_noFieldFault imm fun _ => noFieldFault_next _)
  | call => exact fieldsDecide_nil (State.push16_noFieldFault (s.regs.ic + 3) fun _ => noFieldFault_next _)
  | ret => exact fieldsDecide_nil (State.pop16_noFieldFault fun _ _ => noFieldFault_next _)
  | syscall => exact fieldsDecide_nil (execSyscall_noFieldFault s)
  | reti => exact fieldsDecide_nil fun _ _ => ⟨nofun, nofun⟩

end Machine

/-- Settles O9: the checks of every instruction follow its table of fields, and it is well-formed when they all pass. -/
theorem fieldChecksDecideFaults : Obligations.FieldChecksDecideFaults := by
  intro i s
  obtain ⟨hfault, hnone⟩ := exec_fieldsDecide i s
  have hwf := firstFieldFault_eq_none_iff s.regs.ic i
  exact ⟨hfault, hwf, fun hi => hnone (hwf.mpr hi)⟩

end Sys2Proof
end

section
/-! `reti` (spec/44_branch_call.md R130): declared, not implemented, and fatal from the decoder to the step. -/
namespace Sys2Proof

/-- The opcode byte 0xF8 is `reti`, which has no operand bytes (R60, R62). -/
theorem decode_reti (rest : List Byte) : decode (0xF8 :: rest) = .ok (.reti, rest) :=
  decode_of_opcodeForm (f := .op .reti) rfl rest

namespace Machine

/-- Bytes that decode run their instruction, and what follows it, from a Running state (R72). -/
theorem step_of_decode_ok {s : State} {i : Instr} {tail : List Byte} (hr : s.status = .running)
    (hd : decode s.fetchBytes = .ok (i, tail)) : step s = afterExec (exec i s) := by
  simp only [step, loopStep, hr, fetchExec, hd]

/-- An instruction's fault is the fault of the step that runs it (R133). -/
theorem step_of_exec_fault {s : State} {i : Instr} {tail : List Byte} {f : Fault} (hr : s.status = .running)
    (hd : decode s.fetchBytes = .ok (i, tail)) (hf : exec i s = .fault f) : step s = .fault f := by
  rw [step_of_decode_ok hr hd, hf, afterExec]

theorem exec_reti (s : State) : exec .reti s = .fault (.unimplemented s.regs.ic 0xF8) := rfl

end Machine

open Machine

/-- Settles O54: `reti` raises Unimplemented whatever the state, and the step passes on the fault
of the instruction that 0xF8 decodes to. -/
theorem retiIsUnimplemented : Obligations.RetiIsUnimplemented := by
  refine ⟨exec_reti, fun s rest hr hbytes => ?_⟩
  have hd : decode s.fetchBytes = .ok (.reti, rest) := by rw [hbytes, decode_reti]
  exact step_of_exec_fault hr hd (exec_reti s)

end Sys2Proof
end

section
/-! Encoding and decoding are inverses (spec/30_encoding.md R70): from an instruction by the format of its encoding, and
from bytes by the format that their opcode byte has. -/
namespace Sys2Proof

open Machine

/-! ### From an instruction to its bytes and back, format by format (R51) -/

section
variable {op : Byte} {rest : List Byte}

/-- A register byte with a zero high nibble names the register packed into it (R53). -/
theorem singleReg_pack (a : Reg) (k : Reg → Instr) :
    singleReg op (packNibbles a.selector 0#4) k rest = .ok (k a, rest) := by
  simp [singleReg]

theorem decode_op {i : Instr} (h : opcodeForm op = some (.op i)) : decode ([op] ++ rest) = .ok (i, rest) :=
  decode_of_opcodeForm h rest

theorem decode_encRR {k : Reg → Reg → Instr} (h : opcodeForm op = some (.rr k)) (a b : Reg) :
    decode (encRR op a b ++ rest) = .ok (k a b, rest) := by
  simp [encRR, decode_of_opcodeForm h, Form.parse]

theorem decode_encR {k : Reg → Instr} (h : opcodeForm op = some (.r k)) (a : Reg) :
    decode (encR op a ++ rest) = .ok (k a, rest) := by
  simp [encR, decode_of_opcodeForm h, Form.parse, singleReg_pack]

theorem decode_encRI8 {k : Reg → Byte → Instr} (h : opcodeForm op = some (.ri8 k)) (a : Reg) (imm : Byte) :
    decode (encRI8 op a imm ++ rest) = .ok (k a imm, rest) := by
  simp [encRI8, decode_of_opcodeForm h, Form.parse, singleReg_pack]

theorem decode_encRI16 {k : Reg → Word → Instr} (h : opcodeForm op = some (.ri16 k)) (a : Reg) (imm : Word) :
    decode (encRI16 op a imm ++ rest) = .ok (k a imm, rest) := by
  simp [encRI16, decode_of_opcodeForm h, Form.parse, singleReg_pack]

theorem decode_i8 {k : Byte → Instr} (h : opcodeForm op = some (.i8 k)) (imm : Byte) :
    decode ([op, imm] ++ rest) = .ok (k imm, rest) :=
  decode_of_opcodeForm h (imm :: rest)

theorem decode_encW_i16 {k : Word → Instr} (h : opcodeForm op = some (.i16 k)) (imm : Word) :
    decode (encW op imm ++ rest) = .ok (k imm, rest) := by
  simp [encW, decode_of_opcodeForm h, Form.parse]

theorem decode_encW_a {k : Word → Instr} (h : opcodeForm op = some (.a k)) (t : Word) :
    decode (encW op t ++ rest) = .ok (k t, rest) := by
  simp [encW, decode_of_opcodeForm h, Form.parse]

theorem decode_encAR {k : Word → Reg → Instr} (h : opcodeForm op = some (.ar k)) (addr : Word) (a : Reg) :
    decode (encAR op addr a ++ rest) = .ok (k addr a, rest) := by
  simp [encAR, decode_of_opcodeForm h, Form.parse, singleReg_pack]

theorem decode_encAI8 {k : Word → Byte → Instr} (h : opcodeForm op = some (.ai8 k)) (addr : Word) (imm : Byte) :
    decode (encAI8 op addr imm ++ rest) = .ok (k addr imm, rest) := by
  simp [encAI8, decode_of_opcodeForm h, Form.parse]

end

/-- Every instruction is read back from its encoding: its opcode byte has the format the encoder wrote (R60, R70). -/
theorem decode_encode (i : Instr) (rest : List Byte) : decode (encode i ++ rest) = .ok (i, rest) := by
  cases i with
  | addr8 | addr16 | subr8 | subr16 | andr8 | andr16 | orr8 | orr16 | xorr8 | xorr16 | eqr8 | eqr16 | str8 | str16
  | swp8 | swp16 => exact decode_encRR rfl _ _
  | not8 | not16 | inc8 | inc16 | dec8 | dec16 | push8 | push16 | pop8 | pop16 | ldv8 | ldv16 => exact decode_encR rfl _
  | addi8 | subi8 | andi8 | ori8 | xori8 | eqi8 | sti8 => exact decode_encRI8 rfl _ _
  | addi16 | subi16 | andi16 | ori16 | xori16 | eqi16 | sti16 => exact decode_encRI16 rfl _ _
  | pushi8 | ldvi8 => exact decode_i8 rfl _
  | pushi16 | ldvi16 => exact decode_encW_i16 rfl _
  | jmp | be | bne | bg | bl | call => exact decode_encW_a rfl _
  | stmr8 | stmr16 => exact decode_encAR rfl _ _
  | ld8 a addr => exact decode_encAR (k := fun addr a => .ld8 a addr) rfl addr a
  | ld16 a addr => exact decode_encAR (k := fun addr a => .ld16 a addr) rfl addr a
  | stm8 => exact decode_encAI8 rfl _ _
  | ulv | syscall | ret | reti => exact decode_op rfl

/-! ### From bytes to their instruction and back -/

/-- The instructions that the format builds are encoded in that format, with this opcode byte (R51, R60). -/
def Form.Encodes (op : Byte) : Form → Prop
  | .op i => encode i = [op]
  | .rr k => ∀ a b, encode (k a b) = encRR op a b
  | .r k => ∀ a, encode (k a) = encR op a
  | .ri8 k => ∀ a imm, encode (k a imm) = encRI8 op a imm
  | .ri16 k => ∀ a imm, encode (k a imm) = encRI16 op a imm
  | .i8 k => ∀ imm, encode (k imm) = [op, imm]
  | .i16 k => ∀ imm, encode (k imm) = encW op imm
  | .a k => ∀ t, encode (k t) = encW op t
  | .ar k => ∀ addr a, encode (k addr a) = encAR op addr a
  | .ai8 k => ∀ addr imm, encode (k addr imm) = encAI8 op addr imm

/-! An opcode byte is put together from the fields of its family (R56 to R59). -/

theorem aluOpcode_eq_fields (op : Byte) (hfam : (op.extractLsb' 6 2).toNat = 0) :
    op = BitVec.ofNat 8 (4 * (op.extractLsb' 2 4).toNat + 2 * (op.getLsbD 1).toNat +
      (op.getLsbD 0).toNat) := by
  revert op; decide

theorem loadStoreOpcode_eq_fields (op : Byte) (hfam : (op.extractLsb' 6 2).toNat = 1) :
    op = BitVec.ofNat 8 (64 + 16 * (op.extractLsb' 4 2).toNat + 8 * (op.getLsbD 3).toNat +
      4 * (op.getLsbD 2).toNat + 2 * (op.getLsbD 1).toNat + (op.getLsbD 0).toNat) := by
  revert op; decide

theorem stackVarOpcode_eq_fields (op : Byte) (hfam : (op.extractLsb' 6 2).toNat = 2) :
    op = BitVec.ofNat 8 (128 + 16 * (op.extractLsb' 4 2).toNat + 8 * (op.getLsbD 3).toNat +
      4 * (op.getLsbD 2).toNat + (op.extractLsb' 0 2).toNat) := by
  revert op; decide

theorem branchOpcode_eq_fields (op : Byte) (hfam : (op.extractLsb' 6 2).toNat = 3) :
    op = BitVec.ofNat 8 (192 + 8 * (op.extractLsb' 3 3).toNat + (op.extractLsb' 0 3).toNat) := by
  revert op; decide

/-- The formats of family 00 (R56). -/
theorem aluForm_encodes {op : Byte} {f : Form} (hfam : (op.extractLsb' 6 2).toNat = 0) (h : aluForm op = some f) :
    f.Encodes op := by
  rw [aluOpcode_eq_fields op hfam]
  simp only [aluForm] at h
  generalize op.getLsbD 1 = W at h ⊢
  generalize op.getLsbD 0 = S at h ⊢
  split at h
  case h_10 => cases h
  all_goals
    simp only [*]
    -- The four opcode bytes of a row; a reserved one has no format
    cases W <;> cases S <;> cases h
  all_goals
    dsimp only [Form.Encodes]
    intros
    rfl

/-- The formats of family 01 (R57). -/
theorem loadStoreForm_encodes {op : Byte} {f : Form} (hfam : (op.extractLsb' 6 2).toNat = 1)
    (h : loadStoreForm op = some f) : f.Encodes op := by
  rw [loadStoreOpcode_eq_fields op hfam]
  unfold loadStoreForm at h
  split at h
  case h_12 => cases h
  all_goals
    cases h
    simp only [*, Form.Encodes]
    intros
    rfl

/-- The formats of family 10 (R58). -/
theorem stackVarForm_encodes {op : Byte} {f : Form} (hfam : (op.extractLsb' 6 2).toNat = 2)
    (h : stackVarForm op = some f) : f.Encodes op := by
  rw [stackVarOpcode_eq_fields op hfam]
  unfold stackVarForm at h
  split at h
  case h_12 => cases h
  all_goals
    cases h
    simp only [*, Form.Encodes]
    intros
    rfl

/-- The formats of family 11 (R59). -/
theorem branchForm_encodes {op : Byte} {f : Form} (hfam : (op.extractLsb' 6 2).toNat = 3)
    (h : branchForm op = some f) : f.Encodes op := by
  rw [branchOpcode_eq_fields op hfam]
  unfold branchForm at h
  split at h
  case h_10 => cases h
  all_goals
    cases h
    simp only [*, Form.Encodes]
    intros
    rfl

/-- The format that an opcode byte of the map selects is the one its instructions are encoded in (R49, R60). -/
theorem opcodeForm_encodes {op : Byte} {f : Form} (h : opcodeForm op = some f) : f.Encodes op := by
  unfold opcodeForm at h
  split at h
  case h_1 hfam => exact aluForm_encodes hfam h
  case h_2 hfam => exact loadStoreForm_encodes hfam h
  case h_3 hfam => exact stackVarForm_encodes hfam h
  case h_4 h0 h1 h2 =>
    refine branchForm_encodes ?_ h
    have : (op.extractLsb' 6 2).toNat < 4 := (op.extractLsb' 6 2).isLt
    simp only [imp_false] at h0 h1 h2
    omega

/-- A single-register byte that is read is the packing of that register (R53). -/
theorem singleReg_ok_pack {op b : Byte} {k : Reg → Instr} {rest tail : List Byte} {i : Instr}
    (h : singleReg op b k rest = .ok (i, tail)) :
    ∃ a, i = k a ∧ b = packNibbles a.selector 0 ∧ tail = rest := by
  obtain ⟨hb, rfl, rfl⟩ := singleReg_ok h
  exact ⟨_, rfl, by rw [Reg.selector_ofSelector, pack_lowNibble hb], rfl⟩

/-- What a format reads from operand bytes is encoded in those bytes. -/
theorem Form.encode_of_parse {op : Byte} {f : Form} {rest tail : List Byte} {i : Instr} (he : f.Encodes op)
    (h : f.parse op rest = .ok (i, tail)) : op :: rest = encode i ++ tail := by
  unfold Form.parse at h
  split at h
  case h_1 => cases h; simp [show encode i = _ from he]
  case h_2 k b rest => cases h; simp [show encode (k _ _) = _ from he _ _, encRR, pack_nibbles]
  case h_3 => obtain ⟨a, rfl, rfl, rfl⟩ := singleReg_ok_pack h; simp [he a, encR]
  case h_4 x _ => obtain ⟨a, rfl, rfl, rfl⟩ := singleReg_ok_pack h; simp [he a x, encRI8]
  case h_5 x y _ => obtain ⟨a, rfl, rfl, rfl⟩ := singleReg_ok_pack h; simp [he a (le16 x y), encRI16]
  case h_6 k x _ => cases h; simp [show encode (k _) = _ from he _]
  case h_7 k x y _ => cases h; simp [show encode (k _) = _ from he _, encW]
  case h_8 k x y _ => cases h; simp [show encode (k _) = _ from he _, encW]
  case h_9 x y _ _ => obtain ⟨a, rfl, rfl, rfl⟩ := singleReg_ok_pack h; simp [he (le16 x y) a, encAR]
  case h_10 k x y z _ => cases h; simp [show encode (k _ _) = _ from he _ _, encAI8]
  case h_11 => cases h

/-- Bytes that decode are the encoding of what they decode to, followed by the bytes left (R70). -/
theorem eq_encode_of_decode {bs tail : List Byte} {i : Instr} (h : decode bs = .ok (i, tail)) :
    bs = encode i ++ tail := by
  obtain ⟨op, rest, f, rfl, hf, hparse⟩ := decode_ok h
  exact Form.encode_of_parse (opcodeForm_encodes hf) hparse

/-- Settles O1: instructions are read back format by format, and bytes are written back by the format of their opcode
byte. -/
theorem encodeAndDecodeAreInverses : Obligations.EncodeAndDecodeAreInverses :=
  ⟨decode_encode, fun _ _ _ => eq_encode_of_decode⟩

end Sys2Proof
end

section
/-! The frame of every instruction (spec/10_state.md R25, spec/20_memory.md R43, spec/40_loop.md R77): the registers it
does not list keep their values, memory is written by the listed instructions only, and an instruction that is no jump
advances `ic` by its length. -/
namespace Sys2Proof

open Machine

/-- The registers that an instruction may write, kind by kind (R25). -/
theorem Instr.mem_writes {i : Instr} {r : Reg} :
    r ∈ i.writes ↔ r = .r16 .ic ∨ (∃ f ∈ i.operandFields, f.dest = true ∧ f.reg = r) ∨
      (i.isEquality = true ∧ r = .r16 .fl) ∨ (i.movesSp = true ∧ r = .r16 .sp) ∨
      (i.setsVp = true ∧ r = .r16 .vp) := by
  simp only [writes, List.cons_append, List.mem_cons, List.mem_append, List.mem_map, List.mem_filter, and_assoc,
    List.mem_ite_nil_right, List.not_mem_nil, or_false, or_assoc]

namespace Machine

/-! ### `RegsKept`, through each update -/

section
variable {c : List Reg} (s t : State)

/-- An update that changes listed registers only keeps the rest. -/
theorem regsKept_congr {t u : State} (h8 : ∀ g, .r8 g ∉ c → u.read8 g = t.read8 g)
    (h16 : ∀ d, .r16 d ∉ c → u.read16 d = t.read16 d) : RegsKept c s u ↔ RegsKept c s t := by
  rw [regsKept_iff, regsKept_iff]
  exact and_congr (forall₂_congr fun g hg => by rw [h8 g hg]) (forall₂_congr fun d hd => by rw [h16 d hd])

@[simp] theorem regsKept_refl : RegsKept c s s := fun _ _ => rfl

@[simp] theorem regsKept_write8 {g : Reg8} (v : Byte) (h : .r8 g ∈ c) :
    RegsKept c s (t.write8 g v) ↔ RegsKept c s t :=
  regsKept_congr s (fun e he => by rw [State.write8_read8, if_neg (by rintro rfl; exact he h)]) (by simp)

@[simp] theorem regsKept_write16 {d : Reg16} (v : Word) (h : .r16 d ∈ c) :
    RegsKept c s (t.write16 d v) ↔ RegsKept c s t :=
  regsKept_congr s (by simp) fun e he => by rw [State.write16_read16, if_neg (by rintro rfl; exact he h)]

@[simp] theorem regsKept_setFl (v : Word) (h : .r16 .fl ∈ c) : RegsKept c s (t.setFl v) ↔ RegsKept c s t :=
  regsKept_congr s (by simp) fun e he => by rw [State.setFl_read16, if_neg (by rintro rfl; exact he h)]

@[simp] theorem regsKept_setSp (v : Word) (h : .r16 .sp ∈ c) : RegsKept c s (t.setSp v) ↔ RegsKept c s t :=
  regsKept_congr s (by simp) fun e he => by rw [State.setSp_read16, if_neg (by rintro rfl; exact he h)]

@[simp] theorem regsKept_setVp (v : Word) (h : .r16 .vp ∈ c) : RegsKept c s (t.setVp v) ↔ RegsKept c s t :=
  regsKept_congr s (by simp) fun e he => by rw [State.setVp_read16, if_neg (by rintro rfl; exact he h)]

@[simp] theorem regsKept_fell (n : Nat) (h : .r16 .ic ∈ c) : RegsKept c s (t.fell n) ↔ RegsKept c s t :=
  regsKept_congr s (by simp) fun e he => by rw [State.fell_read16, if_neg (by rintro rfl; exact he h)]

@[simp] theorem regsKept_jumped (a : Word) (h : .r16 .ic ∈ c) : RegsKept c s (t.jumped a) ↔ RegsKept c s t :=
  regsKept_congr s (by simp) fun e he => by rw [State.jumped_read16, if_neg (by rintro rfl; exact he h)]

@[simp] theorem regsKept_memWrite8 (a : Word) (v : Byte) : RegsKept c s (t.memWrite8 a v) ↔ RegsKept c s t :=
  regsKept_congr s (by simp) (by simp)

@[simp] theorem regsKept_store16 (a v : Word) : RegsKept c s (t.store16 a v) ↔ RegsKept c s t :=
  regsKept_congr s (by simp) (by simp)

end

/-! ### The frame -/

/-- What the definition of an instruction other than syscall leaves alone. -/
structure Frame (i : Instr) (s t : State) : Prop where
  regs : RegsKept i.writes s t
  mem : i.storesToMemory = false → t.mem = s.mem
  ic : i.isJump = false → t.regs.ic = s.regs.ic + BitVec.ofNat 16 i.length

section
variable {i : Instr} {s t : State}

theorem frame_fell (hregs : RegsKept i.writes s t) (hmem : i.storesToMemory = false → t.mem = s.mem)
    (hic : t.regs.ic = s.regs.ic) : Frame i s (t.fell i.length) :=
  ⟨by simpa [Instr.mem_writes] using hregs, hmem, by simp [hic]⟩

theorem frame_jumped {a : Word} (hregs : RegsKept i.writes s t)
    (hmem : i.storesToMemory = false → t.mem = s.mem) (h : i.isJump = true) : Frame i s (t.jumped a) :=
  ⟨by simpa [Instr.mem_writes] using hregs, hmem, by simp [h]⟩

theorem frame_write8 {d : Reg8} {v : Byte} (hd : .r8 d ∈ i.writes) : Frame i s ((s.write8 d v).fell i.length) :=
  frame_fell (by simp [hd]) (fun _ => rfl) (by simp)

theorem frame_write16 {d : Reg16} {v : Word} (hd : .r16 d ∈ i.writes) (hic : d ≠ .ic) :
    Frame i s ((s.write16 d v).fell i.length) :=
  frame_fell (by simp [hd]) (by simp) (by simp [hic])

theorem frame_setFl {v : Word} (h : i.isEquality = true) : Frame i s ((s.setFl v).fell i.length) :=
  frame_fell (by simp [Instr.mem_writes, h]) (fun _ => rfl) rfl

theorem frame_setVp {v : Word} (h : i.setsVp = true) : Frame i s ((s.setVp v).fell i.length) :=
  frame_fell (by simp [Instr.mem_writes, h]) (fun _ => rfl) rfl

/-- `sp` moves by the definition of the stack instructions (R25). -/
theorem regsKept_moveSp {v : Word} (h : i.movesSp = true) (ht : RegsKept i.writes s t) :
    RegsKept i.writes s (t.setSp v) := by
  simpa [Instr.mem_writes, h] using ht

end

/-- Every instruction but syscall keeps its frame: the checks are passed through in order, and the state that is left is
the old one with listed registers or memory updated. -/
theorem exec_frame {i : Instr} (hi : i ≠ .syscall) (s : State) : Ensures (Frame i s) (exec i s) := by
  cases i with
  | syscall => exact absurd rfl hi
  | reti => exact ensures_fault _ _
  -- Results in a register: the ALU, register moves and loads
  | addr8 | subr8 | andr8 | orr8 | xorr8 | str8 =>
    exact withReg8_ensures fun _ ha => withReg8_ensures fun _ _ =>
      ensures_next (frame_write8 (ha ▸ .tail _ (.head _)))
  | addi8 | subi8 | andi8 | ori8 | xori8 | not8 | inc8 | dec8 | sti8 | ld8 =>
    exact withReg8_ensures fun _ ha => ensures_next (frame_write8 (ha ▸ .tail _ (.head _)))
  | addr16 | subr16 | andr16 | orr16 | xorr16 | str16 =>
    exact withDest16_ensures fun _ ha hic => withReg16_ensures fun _ _ =>
      ensures_next (frame_write16 (ha ▸ .tail _ (.head _)) hic)
  | addi16 | subi16 | andi16 | ori16 | xori16 | not16 | inc16 | dec16 | sti16 =>
    exact withDest16_ensures fun _ ha hic => ensures_next (frame_write16 (ha ▸ .tail _ (.head _)) hic)
  | ld16 =>
    exact withDest16_ensures fun _ ha hic => State.memRead16_ensures fun _ =>
      ensures_next (frame_write16 (ha ▸ .tail _ (.head _)) hic)
  | swp8 =>
    refine withReg8_ensures fun d ha => withReg8_ensures fun e hb => ensures_next (frame_fell ?_ (fun _ => rfl) (by simp))
    rw [regsKept_write8 _ _ _ (hb ▸ .tail _ (.tail _ (.head _))), regsKept_write8 _ _ _ (ha ▸ .tail _ (.head _))]
    exact regsKept_refl s
  | swp16 =>
    refine withDest16_ensures fun d ha hd => withDest16_ensures fun e hb he =>
      ensures_next (frame_fell ?_ (by simp) (by simp [hd, he]))
    rw [regsKept_write16 _ _ _ (hb ▸ .tail _ (.tail _ (.head _))), regsKept_write16 _ _ _ (ha ▸ .tail _ (.head _))]
    exact regsKept_refl s
  | pop8 =>
    refine withReg8_ensures fun d ha => ensures_next (frame_fell ?_ (fun _ => rfl) (by simp))
    rw [regsKept_write8 _ _ _ (ha ▸ .tail _ (.head _))]
    exact regsKept_moveSp rfl (regsKept_refl s)
  | pop16 =>
    refine withDest16_ensures fun d ha hd => State.pop16_ensures fun _ =>
      ensures_next (frame_fell ?_ (by simp) (by simp [hd]))
    rw [regsKept_write16 _ _ _ (ha ▸ .tail _ (.head _))]
    exact regsKept_moveSp rfl (regsKept_refl s)
  -- Flags and the variable pointer
  | eqr8 => exact withReg8_ensures fun _ _ => withReg8_ensures fun _ _ => ensures_next (frame_setFl rfl)
  | eqr16 => exact withReg16_ensures fun _ _ => withReg16_ensures fun _ _ => ensures_next (frame_setFl rfl)
  | eqi8 => exact withReg8_ensures fun _ _ => ensures_next (frame_setFl rfl)
  | eqi16 => exact withReg16_ensures fun _ _ => ensures_next (frame_setFl rfl)
  | ldv8 => exact withReg8_ensures fun _ _ => ensures_next (frame_setVp rfl)
  | ldv16 => exact withReg16_ensures fun _ _ => ensures_next (frame_setVp rfl)
  | ldvi8 | ldvi16 | ulv => exact ensures_next (frame_setVp rfl)
  -- Stores and pushes
  | stmr8 => exact withReg8_ensures fun _ _ => ensures_next (frame_fell (by simp) nofun rfl)
  | stm8 => exact ensures_next (frame_fell (by simp) nofun rfl)
  | stmr16 =>
    exact withReg16_ensures fun _ _ => State.memWrite16_ensures fun _ => ensures_next (frame_fell (by simp) nofun rfl)
  | push8 =>
    exact withReg8_ensures fun _ _ => ensures_next (frame_fell (regsKept_moveSp rfl (by simp)) nofun rfl)
  | pushi8 => exact ensures_next (frame_fell (regsKept_moveSp rfl (by simp)) nofun rfl)
  | push16 =>
    exact withReg16_ensures fun _ _ => State.push16_ensures fun _ =>
      ensures_next (frame_fell (regsKept_moveSp rfl (by simp)) nofun rfl)
  | pushi16 =>
    exact State.push16_ensures (k := fun t => .next (t.fell 3)) fun _ =>
      ensures_next (frame_fell (regsKept_moveSp rfl (by simp)) nofun rfl)
  -- Jumps
  | call t =>
    exact State.push16_ensures (k := fun u => .next (u.jumped t)) fun _ =>
      ensures_next (frame_jumped (regsKept_moveSp rfl (by simp)) nofun rfl)
  | ret =>
    exact State.pop16_ensures (k := fun u t => .next (u.jumped t)) fun _ =>
      ensures_next (frame_jumped (regsKept_moveSp rfl (regsKept_refl s)) (fun _ => rfl) rfl)
  | jmp => exact ensures_next (frame_jumped (regsKept_refl s) (fun _ => rfl) rfl)
  | be | bne | bg | bl =>
    exact branchIf_ensures (frame_jumped (regsKept_refl s) (fun _ => rfl) rfl)
      (frame_fell (regsKept_refl s) (fun _ => rfl) rfl)

end Machine
end Sys2Proof
end

section
/-! What an instruction may change, for all instructions at once: registers (spec/10_state.md R18, R25), flags
(spec/41_alu.md R86), memory (spec/20_memory.md R43) and the rest of the state (spec/10_state.md R28). -/
namespace Sys2Proof

namespace Machine

/-- A syscall changes `ic` and the call-number register only (R129, R137). -/
theorem execSyscall_regsKept {s t : State} (h : execSyscall s = .next t) :
    RegsKept [.r16 .ic, s.params.nrSel.reg] s t := by
  obtain ⟨v, mem, -, rfl⟩ | ⟨code, -, rfl⟩ := execSyscall_next h
  · rw [regsKept_fell _ _ _ (by simp), regsKept_iff]
    simp only [List.mem_cons, List.not_mem_nil, or_false, not_or]
    refine ⟨fun g ⟨_, hg⟩ => ?_, fun d ⟨_, hd⟩ => ?_⟩
    · simp [State.writeResult_read8, Ne.symm hg]
    · simp [State.writeResult_read16, Ne.symm hd]
  · exact (regsKept_iff _ _ _).mpr ⟨by simp, by simp⟩

/-- A register that an instruction does not list, and that is not the result register of a syscall, is kept (R25). -/
theorem exec_read_of_not_mem_writes {i : Instr} {s t : State} (h : exec i s = .next t) {r : Reg} (hr : r ∉ i.writes)
    (hnr : i = .syscall → r ≠ s.params.nrSel.reg) : t.read r = s.read r := by
  by_cases hi : i = .syscall
  · subst hi
    have hic : r ≠ .r16 .ic := fun hc => hr (Instr.mem_writes.mpr (.inl hc))
    exact execSyscall_regsKept h r (by simp [hic, hnr rfl])
  · exact (exec_frame hi s t h).regs r hr

/-- An instruction that gives a next state has passed the checks of its fields (R54, R55). -/
theorem exec_next_wellFormed {i : Instr} {s t : State} (h : exec i s = .next t) : i.wellFormed = true := by
  by_contra hwf
  obtain ⟨f, hf⟩ := Option.ne_none_iff_exists'.mp (mt (firstFieldFault_eq_none_iff s.regs.ic i).mp hwf)
  rw [(exec_fieldsDecide i s).1 f hf] at h
  cases h

/-- Each field of an instruction that gives a next state passes its check. -/
theorem exec_next_passes {i : Instr} {s t : State} (h : exec i s = .next t) : ∀ f ∈ i.operandFields, f.passes = true := by
  have hwf := exec_next_wellFormed h
  rwa [Instr.wellFormed_eq_all_passes, List.all_eq_true] at hwf

end Machine

open Machine

/-- The register fields of a width-8 instruction have width 8 (R66). -/
theorem Instr.wide_of_isWidth8 {i : Instr} (h : i.isWidth8 = true) : ∀ f ∈ i.operandFields, f.wide = false := by
  cases i <;> simp_all [isWidth8, operandFields]

/-- The register fields of a width-16 instruction have width 16 (R66). -/
theorem Instr.wide_of_isWidth16 {i : Instr} (h : i.isWidth16 = true) : ∀ f ∈ i.operandFields, f.wide = true := by
  cases i <;> simp_all [isWidth16, operandFields]

theorem OperandField.reg_is8_of_passes {f : OperandField} (hp : f.passes = true) (hw : f.wide = false) :
    f.reg.is8 = true := by
  simpa [passes, hw] using hp

theorem OperandField.reg_is16_of_passes {f : OperandField} (hp : f.passes = true) (hw : f.wide = true) :
    f.reg.is8 = false := by
  obtain ⟨r, w, d⟩ := f
  cases r with
  | r8 g => cases d <;> simp_all [passes, Reg.isDest16, Reg.is16]
  | r16 d => rfl

/-- Settles O30: by the frame of every instruction, and by the two answers with which a syscall goes on. -/
theorem registersChangeOnlyAsListed : Obligations.RegistersChangeOnlyAsListed :=
  fun _ _ _ h _ hr hnr => exec_read_of_not_mem_writes h hr hnr

/-- Settles O31: `fl` is listed for an equality or as a destination only. -/
theorem flagsChangeOnlyByEquality : Obligations.FlagsChangeOnlyByEquality := by
  intro i s t h heq hdest hnr
  have hfl : .r16 .fl ∉ i.writes := by
    rw [Instr.mem_writes]
    rintro (hc | ⟨f, hf, hd, hc⟩ | ⟨hc, -⟩ | ⟨-, hc⟩ | ⟨-, hc⟩)
    · cases hc
    · exact hdest f hf hd hc
    · exact absurd (heq.symm.trans hc) (by decide)
    · cases hc
    · cases hc
  have hread := exec_read_of_not_mem_writes h hfl fun hi => (hnr hi).symm
  simpa [State.read16_fl] using hread

/-- Settles O32: the fields of an instruction have its width, and those that passed their check name registers of that
class. -/
theorem widthsAreIsolated : Obligations.WidthsAreIsolated := by
  refine ⟨fun i s t h hw hexec hic hfl hsp hvp => ?narrow, fun i s t g hw hexec => ?wide⟩
  case narrow =>
    have hh : .r16 h ∉ i.writes := by
      rw [Instr.mem_writes]
      rintro (hc | ⟨f, hf, -, hc⟩ | ⟨hc, hr⟩ | ⟨hc, hr⟩ | ⟨hc, hr⟩)
      · exact hic (by injection hc)
      · have := f.reg_is8_of_passes (exec_next_passes hexec f hf) (Instr.wide_of_isWidth8 hw f hf)
        simp [hc, Reg.is8] at this
      · simp [hfl (by injection hr)] at hc
      · simp [hsp (by injection hr)] at hc
      · simp [hvp (by injection hr)] at hc
    have hread := exec_read_of_not_mem_writes hexec hh (by rintro rfl; cases hw)
    simpa using hread
  case wide =>
    have hg : .r8 g ∉ i.writes := by
      rw [Instr.mem_writes]
      rintro (hc | ⟨f, hf, -, hc⟩ | ⟨-, hc⟩ | ⟨-, hc⟩ | ⟨-, hc⟩)
      · cases hc
      · have := f.reg_is16_of_passes (exec_next_passes hexec f hf) (Instr.wide_of_isWidth16 hw f hf)
        simp [hc, Reg.is8] at this
      all_goals cases hc
    have hread := exec_read_of_not_mem_writes hexec hg (by rintro rfl; cases hw)
    simpa using hread

/-- Settles O33: an instruction that is no writer leaves the list of cells as it is. -/
theorem onlyListedInstructionsStore : Obligations.OnlyListedInstructionsStore :=
  fun _ s t h hstore hi => State.byteAt_of_mem ((exec_frame hi s t h).mem hstore)

/-- Settles O34: by the frame of the fields outside registers and memory. -/
theorem onlySyscallLeavesTheCore : Obligations.OnlySyscallLeavesTheCore :=
  fun _ s t h hi => exec_restKept hi s t h

end Sys2Proof
end

section
/-! The decoder against the opcode map (spec/30_encoding.md R50, R60, R61) and against the end of PROG (spec/40_loop.md
R74), and the step of an instruction that has been placed at `ic` (R72). -/
namespace Sys2Proof

open Machine

/-! ### Reserved opcode bytes (R61) -/

/-- The bytes with no format are those of the listed ranges. -/
theorem opcodeForm_eq_none_iff (op : Byte) : opcodeForm op = none ↔ isReservedOpcode op = true := by
  have hmap : ∀ op : Byte, (opcodeForm op).isNone = isReservedOpcode op := by decide
  rw [← hmap, Option.isNone_iff_eq_none]

/-- A byte of the map is never rejected as reserved, whatever its operand bytes are. -/
theorem decode_eq_reservedOpcode_iff (op : Byte) (rest : List Byte) :
    decode (op :: rest) = .error (.reservedOpcode op) ↔ opcodeForm op = none := by
  cases hf : opcodeForm op with
  | none => simp [decode, hf]
  | some f =>
    rw [decode_of_opcodeForm hf]
    simp only [reduceCtorEq, iff_false]
    intro hparse
    obtain hc | ⟨_, hc⟩ := Form.parse_error hparse <;> cases hc

/-- Settles O2: both sides are read off the opcode map, and the step passes on the decoder's fault. -/
theorem reservedOpcodesFault : Obligations.ReservedOpcodesFault := by
  have hdecode : ∀ op rest, decode (op :: rest) = .error (.reservedOpcode op) ↔ isReservedOpcode op = true :=
    fun op rest => (decode_eq_reservedOpcode_iff op rest).trans (opcodeForm_eq_none_iff op)
  refine ⟨hdecode, rfl, fun s op rest hr hbytes hres => ?_⟩
  exact step_of_decode_error hr (hbytes ▸ (hdecode op rest).mpr hres)

/-! ### Lengths (R50, R64) -/

theorem encode_length (i : Instr) : (encode i).length = i.length := by
  cases i <;> rfl

/-- What is left of the bytes is shorter by the length of the instruction. -/
theorem decode_length {bs rest : List Byte} {i : Instr} (h : decode bs = .ok (i, rest)) :
    bs.length = i.length + rest.length := by
  rw [eq_encode_of_decode h, List.length_append, encode_length]

/-- The length of an instruction is that of the format its opcode byte has. -/
theorem length_eq_form_length {op : Byte} {bs rest : List Byte} {i : Instr} {f : Form} (hf : opcodeForm op = some f)
    (h : decode (op :: bs) = .ok (i, rest)) : i.length = f.length := by
  have htotal := decode_length h
  rw [decode_of_opcodeForm hf] at h
  have hparse := Form.parse_length h
  rw [List.length_cons] at htotal
  omega

/-- Settles O4: the encoding has the length that the map gives, and so has the format of the opcode byte. -/
theorem lengthIsFixedByOpcode : Obligations.LengthIsFixedByOpcode := by
  refine ⟨fun bs rest i h => decode_length h, fun op bs bs' rest rest' i i' h h' => ?_⟩
  obtain ⟨_, _, f, hbytes, hf, -⟩ := decode_ok h
  obtain ⟨rfl, -⟩ := List.cons.inj hbytes
  rw [length_eq_form_length hf h, length_eq_form_length hf h']

/-! ### The end of PROG (R74) -/

/-- Too few bytes for the format are Truncated, whatever they are. -/
theorem Form.parse_of_short {op : Byte} {f : Form} {rest : List Byte} (h : rest.length + 1 < f.length) :
    f.parse op rest = .error (.truncated f.length) := by
  unfold Form.parse
  split
  case h_11 => rfl
  all_goals
    simp only [Form.length, List.length_cons] at h
    omega

theorem fetchBytes_length (s : State) : s.fetchBytes.length = s.params.prog.length - s.regs.ic.toNat :=
  List.length_drop

/-- Settles O5: the bytes from `ic` to the end of PROG are too few for the format. -/
theorem truncatedInstructionFaults : Obligations.TruncatedInstructionFaults := by
  intro s op rest f hr hbytes hf hshort
  have hlen := fetchBytes_length s
  rw [hbytes, List.length_cons] at hlen
  have hd : decode s.fetchBytes = .error (.truncated f.length) := by
    rw [hbytes, decode_of_opcodeForm hf, Form.parse_of_short (by omega)]
  exact step_of_decode_error hr hd

/-! ### One step (R72) -/

/-- Settles O7: each word is read by the decoder. -/
theorem sampleWordsDecode : Obligations.SampleWordsDecode :=
  ⟨rfl, rfl, rfl, rfl, rfl, rfl, rfl, rfl⟩

/-- Settles O11: the loop decodes and runs. -/
theorem stepRunsDecodedInstruction : Obligations.StepRunsDecodedInstruction :=
  fun _ _ _ hr hd => step_of_decode_ok hr hd

/-- Bytes after an instruction do not change what it decodes to. -/
theorem decode_append {bs rest : List Byte} {i : Instr} (h : decode bs = .ok (i, rest)) (more : List Byte) :
    decode (bs ++ more) = .ok (i, rest ++ more) := by
  rw [eq_encode_of_decode h, List.append_assoc, decode_encode]

namespace Machine

/-- Bytes placed at `ic` are fetched there, where they end below the most bytes a program may have. -/
theorem placeAtIc_fetchBytes (s : State) (bs : List Byte) (h : s.regs.ic.toNat + bs.length ≤ Config.maxProgram) :
    ∃ more, (s.placeAtIc bs).fetchBytes = bs ++ more := by
  simp only [State.placeAtIc, State.fetchBytes]
  generalize s.regs.ic.toNat = n at h
  generalize s.params.prog = prog
  have hbelow : (prog.take n ++ List.replicate (n - prog.length) 0 : List Byte).length = n := by simp; omega
  rw [List.drop_take, List.drop_left' hbelow, List.take_append, List.take_of_length_le (by omega)]
  exact ⟨_, rfl⟩

end Machine

/-- Settles O12: the four bytes placed at `ic` are fetched, and decode with whatever follows them. -/
theorem placedWordRunsNext : Obligations.PlacedWordRunsNext := by
  intro s nbits w i hroom hword
  obtain ⟨rest, hd⟩ : ∃ rest, decode (tableBytes nbits w) = .ok (i, rest) := by
    unfold decodeTableWord at hword
    split at hword
    · cases hword; exact ⟨_, by assumption⟩
    · cases hword
  obtain ⟨more, hfetch⟩ := placeAtIc_fetchBytes s (tableBytes nbits w) hroom
  refine ⟨step_of_decode_ok rfl (tail := rest ++ more) ?_, rfl, rfl⟩
  rw [State.withFetchWord, hfetch, decode_append hd]

end Sys2Proof
end

section
/-! What an instruction and a step can answer (spec/60_exceptions.md R132, spec/10_state.md R27): a next state or one of
the fatal errors listed for the instruction, and a refusal only where no step is enabled. -/
namespace Sys2Proof

namespace Machine

/-! ### Results through the shared operations -/

/-- The fatal errors of the field checks (R54, R55). -/
def Fault.isFieldCheck : Fault → Bool
  | .badSelector .. | .icWrite .. => true
  | _ => false

/-- The result is no refusal, and its fatal error, if it is one, is a field check's or one of `Q`. -/
def Answers (Q : Fault → Prop) : Result → Prop
  | .next _ => True
  | .fault f => f.isFieldCheck = true ∨ Q f
  | .refused _ => False

section
variable {Q : Fault → Prop} {s : State}

theorem answers_next (t : State) : Answers Q (.next t) := trivial

theorem withReg8_answers {r : Reg} {k : Reg8 → Result} (h : ∀ g, Answers Q (k g)) : Answers Q (withReg8 r s k) := by
  cases r with
  | r8 g => exact h g
  | r16 _ => exact .inl rfl

theorem withReg16_answers {r : Reg} {k : Reg16 → Result} (h : ∀ d, Answers Q (k d)) :
    Answers Q (withReg16 r s k) := by
  cases r with
  | r8 _ => exact .inl rfl
  | r16 d => exact h d

theorem withDest16_answers {r : Reg} {k : Reg16 → Result} (h : ∀ d, Answers Q (k d)) :
    Answers Q (withDest16 r s k) := by
  refine withReg16_answers fun d => ?_
  split
  · exact .inl rfl
  · exact h d

theorem State.memRead16_answers {a : Word} {k : Word → Result} (hQ : Q (.memoryBounds 65535 2))
    (h : ∀ v, Answers Q (k v)) : Answers Q (s.memRead16 a k) := by
  rw [State.memRead16_eq]
  split
  · subst a; exact .inr hQ
  · exact h _

theorem State.memWrite16_answers {a : Word} (v : Word) {k : State → Result} (hQ : Q (.memoryBounds 65535 2))
    (h : ∀ t, Answers Q (k t)) : Answers Q (s.memWrite16 a v k) := by
  rw [State.memWrite16_eq]
  split
  · subst a; exact .inr hQ
  · exact h _

theorem State.push16_answers (v : Word) {k : State → Result} (hQ : Q (.memoryBounds 65535 2))
    (h : ∀ t, Answers Q (k t)) : Answers Q (s.push16 v k) :=
  State.memWrite16_answers v hQ fun _ => h _

theorem State.pop16_answers {k : State → Word → Result} (hQ : Q (.memoryBounds 65535 2))
    (h : ∀ t v, Answers Q (k t v)) : Answers Q (s.pop16 k) :=
  State.memRead16_answers hQ fun _ => h _ _

end

/-- The fatal errors that R132 lists for an instruction, those of the field checks left out. -/
def Raises (i : Instr) (s : State) (f : Fault) : Prop :=
  (i.hasWideAccess = true ∧ f = .memoryBounds 65535 2) ∨ (i = .syscall ∧ ∃ info, f = .hostError info) ∨
    (i = .reti ∧ f = .unimplemented s.regs.ic 0xF8)

theorem execSyscall_answers (s : State) : Answers (Raises .syscall s) (execSyscall s) := by
  unfold execSyscall
  cases s.hostAnswer with
  | cont v mem => trivial
  | exit code => trivial
  | error info => exact .inr (.inr (.inl ⟨rfl, info, rfl⟩))

/-- Every instruction gives a next state or a fatal error that is listed for it (R132). -/
theorem exec_answers (i : Instr) (s : State) : Answers (Raises i s) (exec i s) := by
  cases i with
  | addr8 | subr8 | andr8 | orr8 | xorr8 | str8 | swp8 | eqr8 =>
    exact withReg8_answers fun _ => withReg8_answers fun _ => answers_next _
  | addr16 | subr16 | andr16 | orr16 | xorr16 | str16 =>
    exact withDest16_answers fun _ => withReg16_answers fun _ => answers_next _
  | eqr16 => exact withReg16_answers fun _ => withReg16_answers fun _ => answers_next _
  | swp16 => exact withDest16_answers fun _ => withDest16_answers fun _ => answers_next _
  | addi8 | subi8 | andi8 | ori8 | xori8 | sti8 | not8 | inc8 | dec8 | pop8 | ld8 | eqi8 | push8 | ldv8 | stmr8 =>
    exact withReg8_answers fun _ => answers_next _
  | addi16 | subi16 | andi16 | ori16 | xori16 | sti16 | not16 | inc16 | dec16 =>
    exact withDest16_answers fun _ => answers_next _
  | eqi16 | ldv16 => exact withReg16_answers fun _ => answers_next _
  | stm8 | pushi8 | ldvi8 | ldvi16 | ulv | jmp | be | bne | bg | bl => exact answers_next _
  -- A two-byte access
  | pop16 =>
    exact withDest16_answers fun _ => State.pop16_answers (.inl ⟨rfl, rfl⟩) fun _ _ => answers_next _
  | ld16 => exact withDest16_answers fun _ => State.memRead16_answers (.inl ⟨rfl, rfl⟩) fun _ => answers_next _
  | push16 => exact withReg16_answers fun _ => State.push16_answers _ (.inl ⟨rfl, rfl⟩) fun _ => answers_next _
  | stmr16 => exact withReg16_answers fun _ => State.memWrite16_answers _ (.inl ⟨rfl, rfl⟩) fun _ => answers_next _
  | pushi16 imm => exact State.push16_answers imm (.inl ⟨rfl, rfl⟩) fun _ => answers_next _
  | call => exact State.push16_answers (s.regs.ic + 3) (.inl ⟨rfl, rfl⟩) fun _ => answers_next _
  | ret => exact State.pop16_answers (.inl ⟨rfl, rfl⟩) fun _ _ => answers_next _
  -- The host, and the instruction that is not implemented
  | syscall => exact execSyscall_answers s
  | reti => exact .inr (.inr (.inr ⟨rfl, rfl⟩))

/-! ### The fatal errors of an instruction (R132) -/

/-- A field's fault records `ic`, and selector 11 where the field is `ic` as a destination (R54, R55). -/
theorem operandField_fault_cases {ic : Word} {x : OperandField} {f : Fault} (h : x.fault ic = some f) :
    (∃ sel, f = .badSelector ic sel) ∨ f = .icWrite ic 11 := by
  unfold OperandField.fault at h
  split at h
  · cases h; exact .inl ⟨_, rfl⟩
  · split at h
    · cases h; exact .inr rfl
    · cases h

/-- An instruction stops by a field check of its own, when it is ill-formed, or by an error listed for it. -/
theorem exec_fault_cases {i : Instr} {s : State} {f : Fault} (h : exec i s = .fault f) :
    (i.wellFormed = false ∧ ((∃ sel, f = .badSelector s.regs.ic sel) ∨ f = .icWrite s.regs.ic 11)) ∨
      Raises i s f := by
  obtain ⟨hfirst, hnone⟩ := exec_fieldsDecide i s
  cases hf : firstFieldFault s.regs.ic i.operandFields with
  | some g =>
    have hg : f = g := by simpa [h] using hfirst g hf
    obtain ⟨x, -, hx⟩ := List.exists_of_findSome?_eq_some hf
    have hwf : i.wellFormed ≠ true := fun hc => by simp [(firstFieldFault_eq_none_iff s.regs.ic i).mpr hc] at hf
    exact .inl ⟨by simpa using hwf, hg ▸ operandField_fault_cases hx⟩
  | none =>
    have hanswers := exec_answers i s
    rw [h] at hanswers
    refine .inr (hanswers.resolve_left fun hc => ?_)
    cases f with
    | badSelector ic sel => exact (hnone hf ic sel).1 h
    | icWrite ic sel => exact (hnone hf ic sel).2 h
    | _ => cases hc

/-- An instruction is never refused (R27). -/
theorem exec_ne_refused (i : Instr) (s : State) (e : Refusal) : exec i s ≠ .refused e := by
  intro h
  have hanswers := exec_answers i s
  rw [h] at hanswers
  exact hanswers

/-! ### The outcomes of a step -/

/-- CheckIC goes on, halts or faults, and never refuses (R73). -/
theorem checkIC_ne_refused (s : State) (e : Refusal) : checkIC s ≠ .refused e := by
  unfold checkIC raise
  split
  · nofun
  · split <;> nofun

theorem afterExec_ne_refused {r : Result} {e : Refusal} (h : r ≠ .refused e) : afterExec r ≠ .refused e := by
  unfold afterExec
  split
  · split
    · exact checkIC_ne_refused _ e
    · nofun
  · nofun
  · rwa [ne_eq]

theorem decodeFault_ne_refused (d : DecodeFault) (s : State) (e : Refusal) : decodeFault d s ≠ .refused e := by
  cases d with
  | noByte => exact checkIC_ne_refused s e
  | _ => nofun

theorem step_ne_refused {s : State} (hr : s.status = .running) (e : Refusal) : step s ≠ .refused e := by
  cases hd : decode s.fetchBytes with
  | ok p =>
    obtain ⟨i, rest⟩ := p
    rw [step_of_decode_ok hr hd]
    exact afterExec_ne_refused (exec_ne_refused i s e)
  | error d =>
    rw [step_of_decode_error hr hd]
    exact decodeFault_ne_refused d s e

/-- Outside Running the step is refused (R27). -/
theorem step_of_not_running {s : State} (h : s.status ≠ .running) : step s = .refused .noStepEnabled := by
  unfold step loopStep
  cases hs : s.status with
  | running => exact absurd hs h
  | _ => rfl

theorem settle_of_fault {s : State} {f : Fault} (h : step s = .fault f) : settle s = s.afterFatal f := by
  simp only [settle, show loopStep s = .fault f from h]

theorem settle_of_refused {s : State} {e : Refusal} (h : step s = .refused e) : settle s = s := by
  simp only [settle, show loopStep s = .refused e from h]

end Machine

open Machine

/-- Settles O10: by the two sources of an instruction's fatal errors. -/
theorem executionFaultsHaveTheirSources : Obligations.ExecutionFaultsHaveTheirSources := by
  intro i s f h
  obtain ⟨hwf, ⟨sel, rfl⟩ | rfl⟩ | ⟨hwide, rfl⟩ | ⟨rfl, info, rfl⟩ | ⟨rfl, rfl⟩ := exec_fault_cases h
  · exact ⟨hwf, rfl⟩
  · exact ⟨hwf, rfl, rfl⟩
  · exact ⟨hwide, rfl, rfl⟩
  · rfl
  · exact ⟨rfl, rfl, rfl⟩

/-- Settles O16: a Running state is never refused, any other always. -/
theorem stepsExactlyFromRunning : Obligations.StepsExactlyFromRunning := by
  refine ⟨fun s h => step_of_not_running h, fun s hr => ?_⟩
  cases h : step s with
  | next t => exact .inl ⟨t, rfl⟩
  | fault f => exact .inr ⟨f, rfl⟩
  | refused e => exact absurd h (step_ne_refused hr e)

/-- Settles O18: the state that the fault leaves is Fatal, so the step from it is refused. -/
theorem fatalErrorsAreTerminal : Obligations.FatalErrorsAreTerminal := by
  intro s f h
  have hrefused : step (s.afterFatal f) = .refused .noStepEnabled := step_of_not_running nofun
  rw [settle_of_fault h]
  exact ⟨rfl, hrefused, settle_of_refused hrefused, rfl, nofun⟩

end Sys2Proof
end

section
/-! The invariant of a run and where `ic` is (spec/40_loop.md R73, R74, R77, R78): CheckIC keeps it inside PROG, an
instruction that is no jump advances it by its length, and every step keeps memory canonical. -/
namespace Sys2Proof

namespace Machine

/-! ### CheckIC (R73) -/

theorem checkIC_of_eq {s : State} (h : s.regs.ic.toNat = s.params.prog.length) :
    checkIC s = .next { s with status := .halted } :=
  if_pos h

theorem checkIC_of_gt {s : State} (h : s.params.prog.length < s.regs.ic.toNat) :
    checkIC s = .fault (.icOverrun s.regs.ic) := by
  rw [checkIC, if_neg (by omega), if_pos h, raise]

theorem checkIC_of_lt {s : State} (h : s.regs.ic.toNat < s.params.prog.length) : checkIC s = .next s := by
  rw [checkIC, if_neg (by omega), if_neg (by omega)]

/-- A state that CheckIC leaves Running has `ic` below L. -/
theorem checkIC_next_running {s t : State} (h : checkIC s = .next t) (ht : t.status = .running) :
    t.regs.ic.toNat < t.params.prog.length := by
  obtain ⟨-, rfl⟩ | ⟨hlt, rfl⟩ := checkIC_next h
  · cases ht
  · exact hlt

/-- Only CheckIC lets a step leave the machine Running. -/
theorem step_next_running_ic {s t : State} (h : step s = .next t) (ht : t.status = .running) :
    t.regs.ic.toNat < t.params.prog.length := by
  obtain ⟨-, ⟨i, rest, -, hexec⟩ | ⟨-, hcheck⟩⟩ := step_next h
  · obtain ⟨u, -, ⟨-, hcheck⟩ | ⟨hu, rfl⟩⟩ := afterExec_next hexec
    · exact checkIC_next_running hcheck ht
    · exact absurd ht hu
  · exact checkIC_next_running hcheck ht

/-! ### Memory stays canonical -/

/-- The stores of R43 stay inside memory: a two-byte one at 65535 has faulted. -/
theorem exec_wf_of_stores {i : Instr} {s : State} (hi : i.storesToMemory = true) (h : Memory.wf s.mem = true) :
    Ensures (fun t => Memory.wf t.mem = true) (exec i s) := by
  cases i with
  | stmr8 => exact withReg8_ensures fun _ _ => ensures_next (State.memWrite8_wf _ _ h)
  | push8 => exact withReg8_ensures fun _ _ => ensures_next (State.memWrite8_wf _ _ h)
  | stm8 addr imm => exact ensures_next (State.memWrite8_wf addr imm h)
  | pushi8 imm => exact ensures_next (State.memWrite8_wf s.regs.sp imm h)
  | stmr16 =>
    exact withReg16_ensures fun _ _ => State.memWrite16_ensures fun ha => ensures_next (State.store16_wf h ha)
  | push16 => exact withReg16_ensures fun _ _ => State.push16_ensures fun hsp => ensures_next (State.store16_wf h hsp)
  | pushi16 =>
    exact State.push16_ensures (k := fun t => .next (t.fell 3)) fun hsp => ensures_next (State.store16_wf h hsp)
  | call t =>
    exact State.push16_ensures (k := fun u => .next (u.jumped t)) fun hsp => ensures_next (State.store16_wf h hsp)
  | _ => cases hi

/-- A syscall leaves memory as it was or takes the host's cells in canonical form (R129). -/
theorem execSyscall_wf {s t : State} (h : execSyscall s = .next t) (hwf : Memory.wf s.mem = true) :
    Memory.wf t.mem = true := by
  obtain ⟨v, mem, -, rfl⟩ | ⟨code, -, rfl⟩ := execSyscall_next h
  · exact Memory.ofCells_wf mem
  · simpa using hwf

theorem exec_wf {i : Instr} {s t : State} (h : exec i s = .next t) (hwf : Memory.wf s.mem = true) :
    Memory.wf t.mem = true := by
  by_cases hi : i = .syscall
  · subst hi
    exact execSyscall_wf h hwf
  · cases hstore : i.storesToMemory with
    | true => exact exec_wf_of_stores hstore hwf t h
    | false => rwa [(exec_frame hi s t h).mem hstore]

/-! ### The status and `ic` after an instruction -/

/-- An instruction leaves the machine as it runs, or a syscall ends it with no register changed (R137). -/
theorem exec_status {i : Instr} {s t : State} (h : exec i s = .next t) :
    t.status = s.status ∨ ∃ code, t.status = .exited code ∧ t.regs = s.regs := by
  by_cases hi : i = .syscall
  · subst hi
    obtain ⟨v, mem, -, rfl⟩ | ⟨code, -, rfl⟩ := execSyscall_next h
    · exact .inl (by simp)
    · exact .inr ⟨code, rfl, by simp⟩
  · obtain ⟨hstatus, -⟩ := exec_restKept hi s t h
    exact .inl hstatus

/-- An instruction that neither jumps nor exits advances `ic` by its length (R77). -/
theorem exec_ic {i : Instr} {s t : State} (h : exec i s = .next t) (hjump : i.isJump = false)
    (hexit : ∀ code, t.status ≠ .exited code) : t.regs.ic = s.regs.ic + BitVec.ofNat 16 i.length := by
  by_cases hi : i = .syscall
  · subst hi
    obtain ⟨v, mem, -, rfl⟩ | ⟨code, -, rfl⟩ := execSyscall_next h
    · simp [Instr.length]
    · exact absurd rfl (hexit code)
  · exact (exec_frame hi s t h).ic hjump

/-- An instruction that has been decoded at an `ic` inside PROG ends inside PROG (R74). -/
theorem ic_add_length_le {s : State} {i : Instr} {rest : List Byte} (hd : decode s.fetchBytes = .ok (i, rest))
    (hic : s.regs.ic.toNat < s.params.prog.length) : s.regs.ic.toNat + i.length ≤ s.params.prog.length := by
  have hlen := decode_length hd
  rw [fetchBytes_length] at hlen
  omega

/-- The advance does not wrap, since it ends inside PROG (R78). -/
theorem exec_ic_toNat {i : Instr} {s t : State} {rest : List Byte} (hinv : s.Inv) (hr : s.status = .running)
    (hd : decode s.fetchBytes = .ok (i, rest)) (h : exec i s = .next t) (hjump : i.isJump = false)
    (hexit : ∀ code, t.status ≠ .exited code) : t.regs.ic.toNat = s.regs.ic.toNat + i.length := by
  obtain ⟨-, hmax, hrun, -⟩ := hinv
  have hend := ic_add_length_le hd (hrun hr)
  rw [Config.maxProgram] at hmax
  rw [exec_ic h hjump hexit, BitVec.toNat_add, BitVec.toNat_ofNat]
  omega

/-! ### The invariant -/

/-- CheckIC puts a Running state into the invariant. -/
theorem checkIC_inv {s t : State} (hwf : Memory.wf s.mem = true) (hmax : s.params.prog.length ≤ Config.maxProgram)
    (hr : s.status = .running) (h : checkIC s = .next t) : t.Inv := by
  obtain ⟨heq, rfl⟩ | ⟨hlt, rfl⟩ := checkIC_next h
  · exact ⟨hwf, hmax, nofun, fun _ => heq, nofun⟩
  · exact ⟨hwf, hmax, fun _ => hlt, by simp [hr], by simp [hr]⟩

theorem afterExec_inv {i : Instr} {s t : State} (hinv : s.Inv) (hr : s.status = .running)
    (h : afterExec (exec i s) = .next t) : t.Inv := by
  obtain ⟨hwf, hmax, hrun, -⟩ := hinv
  obtain ⟨u, hexec, hafter⟩ := afterExec_next h
  have huwf := exec_wf hexec hwf
  have hup := exec_params hexec
  rcases hafter with ⟨hu, hcheck⟩ | ⟨hu, rfl⟩
  · exact checkIC_inv huwf (hup ▸ hmax) hu hcheck
  · obtain hsame | ⟨code, hcode, hregs⟩ := exec_status hexec
    · exact absurd (hsame.trans hr) hu
    · refine ⟨huwf, hup ▸ hmax, by simp [hcode], by simp [hcode], fun _ _ => ?_⟩
      rw [hregs, hup]
      exact hrun hr

theorem step_inv {s t : State} (hinv : s.Inv) (h : step s = .next t) : t.Inv := by
  obtain ⟨hr, ⟨i, rest, -, hexec⟩ | ⟨-, hcheck⟩⟩ := step_next h
  · exact afterExec_inv hinv hr hexec
  · obtain ⟨hwf, hmax, -⟩ := hinv
    exact checkIC_inv hwf hmax hr hcheck

/-! ### Who overruns PROG (R74) -/

/-- What follows an instruction faults by the instruction or by CheckIC. -/
theorem afterExec_fault {r : Result} {f : Fault} (h : afterExec r = .fault f) :
    r = .fault f ∨ ∃ u, r = .next u ∧ u.status = .running ∧ checkIC u = .fault f := by
  unfold afterExec at h
  split at h
  · split at h
    · exact .inr ⟨_, rfl, by assumption, h⟩
    · cases h
  · exact .inl h
  · cases h

/-- A step faults in decoding, or in the instruction it has decoded and what follows that. -/
theorem step_fault {s : State} {f : Fault} (h : step s = .fault f) :
    s.status = .running ∧ ((∃ e, decode s.fetchBytes = .error e ∧ decodeFault e s = .fault f) ∨
      ∃ i rest, decode s.fetchBytes = .ok (i, rest) ∧ afterExec (exec i s) = .fault f) := by
  have hr : s.status = .running := by
    by_contra hs
    rw [step_of_not_running hs] at h
    cases h
  refine ⟨hr, ?_⟩
  cases hd : decode s.fetchBytes with
  | error e => exact .inl ⟨e, rfl, step_of_decode_error hr hd ▸ h⟩
  | ok p => exact .inr ⟨p.1, p.2, rfl, step_of_decode_ok hr hd ▸ h⟩

/-- Below L, bytes that do not decode do not overrun. -/
theorem decodeFault_ne_icOverrun {s : State} (hic : s.regs.ic.toNat < s.params.prog.length) (e : DecodeFault)
    (x : Word) : decodeFault e s ≠ .fault (.icOverrun x) := by
  cases e with
  | noByte => rw [decodeFault, checkIC_of_lt hic]; nofun
  | _ => nofun

/-- The overrun is CheckIC's, never the instruction's own fault (R132). -/
theorem exec_ne_icOverrun (i : Instr) (s : State) (x : Word) : exec i s ≠ .fault (.icOverrun x) := by
  intro h
  obtain ⟨-, ⟨_, hf⟩ | hf⟩ | ⟨-, hf⟩ | ⟨-, _, hf⟩ | ⟨-, hf⟩ := exec_fault_cases h
  all_goals cases hf

end Machine

open Machine

/-- Settles O14: exec keeps memory canonical, and CheckIC, or the exit's unchanged `ic`, gives the clause of the status. -/
theorem stepKeepsInvariant : Obligations.StepKeepsInvariant :=
  fun _ _ => step_inv

/-- Settles O13: the three cases of CheckIC, and that a step leaves Running through CheckIC only. -/
theorem checkIcDecidesStatus : Obligations.CheckIcDecidesStatus :=
  ⟨fun _ => ⟨checkIC_of_eq, checkIC_of_gt, checkIC_of_lt⟩, fun _ _ => step_next_running_ic⟩

/-- Settles O19: neither CheckIC nor the exit moves `ic` after the instruction has advanced it. -/
theorem fallThroughAdvancesByLength : Obligations.FallThroughAdvancesByLength := by
  intro s t i rest hinv hr hd hjump hstep hexit
  rw [step_of_decode_ok hr hd] at hstep
  obtain ⟨u, hexec, ⟨hu, hcheck⟩ | ⟨-, rfl⟩⟩ := afterExec_next hstep
  · have hic := exec_ic_toNat hinv hr hd hexec hjump (by simp [hu])
    obtain ⟨-, rfl⟩ | ⟨-, rfl⟩ := checkIC_next hcheck
    · exact hic
    · exact hic
  · exact exec_ic_toNat hinv hr hd hexec hjump hexit

/-- Settles O6: after an instruction that is no jump `ic` is at most L, so CheckIC does not find it above. -/
theorem onlyJumpsOverrun : Obligations.OnlyJumpsOverrun := by
  intro s x hinv h
  have ⟨_, _, hrun, _⟩ := hinv
  obtain ⟨hr, ⟨e, -, hfault⟩ | ⟨i, rest, hd, hfault⟩⟩ := step_fault h
  · exact absurd hfault (decodeFault_ne_icOverrun (hrun hr) e x)
  · refine ⟨i, rest, hd, ?_⟩
    by_contra hjump
    obtain hexec | ⟨u, hexec, hu, hcheck⟩ := afterExec_fault hfault
    · exact exec_ne_icOverrun i s x hexec
    · have hic := exec_ic_toNat hinv hr hd hexec (by simpa using hjump) (by simp [hu])
      have hend := ic_add_length_le hd (hrun hr)
      obtain ⟨hover, -⟩ := checkIC_fault hcheck
      rw [exec_params hexec] at hover
      omega

end Sys2Proof
end

section
/-! Memory in canonical form (spec/10_state.md R26), and how a run starts (spec/70_reset_and_hazards.md R147, R148). -/
namespace Sys2Proof

namespace Machine

/-! ### One list for each memory -/

theorem Memory.read_cons_self (a : Nat) (v : Byte) (m : Memory) : Memory.read ((a, v) :: m) a = v := by
  simp [Memory.read]

theorem Memory.read_cons_of_ne {a b : Nat} (h : b ≠ a) (v : Byte) (m : Memory) :
    Memory.read ((a, v) :: m) b = Memory.read m b := by
  simp [Memory.read, h.symm]

/-- Below all its entries a memory reads as unlisted. -/
theorem Memory.read_of_lt {m : Memory} {a : Nat} (h : ∀ c ∈ m, a < c.1) : Memory.read m a = Memory.unlisted := by
  induction m with
  | nil => rfl
  | cons c m ih =>
    obtain ⟨b, v⟩ := c
    have hb : a < b := h (b, v) (by simp)
    rw [Memory.read_cons_of_ne hb.ne, ih fun c hc => h c (by simp [hc])]

/-- The first entry of a canonical memory is listed in every canonical memory that reads alike, and nothing comes before
it there. -/
theorem Memory.le_of_read_eq {a b : Nat} {v w : Byte} {m m' : Memory} (h : Memory.wf ((a, v) :: m) = true)
    (h' : Memory.wf ((b, w) :: m') = true)
    (hread : ∀ x, Memory.read ((a, v) :: m) x = Memory.read ((b, w) :: m') x) : b ≤ a := by
  obtain ⟨-, hv, -, -⟩ := (Memory.wf_cons _ _ _).mp h
  obtain ⟨-, -, hrise, -⟩ := (Memory.wf_cons _ _ _).mp h'
  by_contra hlt
  refine hv ?_
  calc v = Memory.read ((b, w) :: m') a := by rw [← hread, Memory.read_cons_self]
    _ = Memory.unlisted := Memory.read_of_lt fun c hc => by
      rcases List.mem_cons.mp hc with rfl | hc
      · simp only; omega
      · have := hrise c hc; omega

theorem Memory.nil_of_read_eq {m : Memory} (h : Memory.wf m = true) (hread : ∀ a, Memory.read m a = Memory.unlisted) :
    m = [] := by
  cases m with
  | nil => rfl
  | cons c m =>
    obtain ⟨a, v⟩ := c
    obtain ⟨-, hv, -⟩ := (Memory.wf_cons _ _ _).mp h
    exact absurd (Memory.read_cons_self a v m ▸ hread a) hv

theorem Memory.eq_of_read_eq {m m' : Memory} (h : Memory.wf m = true) (h' : Memory.wf m' = true)
    (hread : ∀ a, Memory.read m a = Memory.read m' a) : m = m' := by
  induction m generalizing m' with
  | nil => exact (Memory.nil_of_read_eq h' fun a => (hread a).symm).symm
  | cons c m ih =>
    obtain ⟨a, v⟩ := c
    cases m' with
    | nil => exact Memory.nil_of_read_eq h hread
    | cons c' m' =>
      obtain ⟨b, w⟩ := c'
      obtain rfl : a = b :=
        Nat.le_antisymm (Memory.le_of_read_eq h' h fun x => (hread x).symm) (Memory.le_of_read_eq h h' hread)
      have hvw := hread a
      rw [Memory.read_cons_self, Memory.read_cons_self] at hvw
      obtain ⟨-, -, hrise, hwf⟩ := (Memory.wf_cons _ _ _).mp h
      obtain ⟨-, -, hrise', hwf'⟩ := (Memory.wf_cons _ _ _).mp h'
      rw [hvw, ih hwf hwf' fun x => ?_]
      by_cases hx : x = a
      · rw [hx, Memory.read_of_lt hrise, Memory.read_of_lt hrise']
      · rw [← Memory.read_cons_of_ne hx v m, hread, Memory.read_cons_of_ne hx]

theorem Memory.read_ofCells_of_wf {m : Memory} (h : Memory.wf m = true) (b : Nat) :
    Memory.read (Memory.ofCells m) b = Memory.read m b := by
  induction m with
  | nil => rfl
  | cons c m ih =>
    obtain ⟨a, v⟩ := c
    obtain ⟨ha, -, -, hwf⟩ := (Memory.wf_cons _ _ _).mp h
    rw [Memory.read_ofCells a v m b ha, ih hwf]
    simp [Memory.read, eq_comm]

/-- A list of cells in canonical form describes itself. -/
theorem Memory.ofCells_of_wf {m : Memory} (h : Memory.wf m = true) : Memory.ofCells m = m :=
  Memory.eq_of_read_eq (Memory.ofCells_wf m) h (Memory.read_ofCells_of_wf h)

/-! ### Storing a variable's bytes (R148) -/

theorem read_storeBytes_outside {m : Memory} {a b : Nat} {bs : List Byte} (h : ¬(a ≤ b ∧ b < a + bs.length)) :
    Memory.read (storeBytes m a bs) b = Memory.read m b := by
  induction bs generalizing m a with
  | nil => rfl
  | cons x bs ih =>
    rw [List.length_cons] at h
    rw [storeBytes, ih (by omega), Memory.read_write, if_neg (by omega)]

theorem read_storeBytes_inside (m : Memory) (a : Nat) {bs : List Byte} {k : Nat} (h : k < bs.length) :
    Memory.read (storeBytes m a bs) (a + k) = bs[k] := by
  induction bs generalizing m a k with
  | nil => cases h
  | cons x bs ih =>
    cases k with
    | zero => simp [storeBytes, read_storeBytes_outside]
    | succ k =>
      rw [storeBytes, show a + (k + 1) = a + 1 + k by omega, ih _ _ (Nat.lt_of_succ_lt_succ h), List.getElem_cons_succ]

theorem storeBytes_wf {m : Memory} {a : Nat} {bs : List Byte} (h : Memory.wf m = true)
    (hlast : a + bs.length ≤ Memory.size) : Memory.wf (storeBytes m a bs) = true := by
  induction bs generalizing m a with
  | nil => exact h
  | cons x bs ih =>
    rw [List.length_cons] at hlast
    exact ih (Memory.write_wf x h (by omega)) (by omega)

/-! ### The descriptor (R148) -/

theorem variableAddress_eq (offset : Nat) : variableAddress offset = 32768 + offset := rfl

theorem descriptorOk_cons (n : Nat) (v : Variable) (vs : List Variable) :
    descriptorOk n (v :: vs) = true ↔
      v.offset = n ∧ v.bytes.length = v.size ∧ variableAddress (v.offset + v.size) ≤ Memory.size ∧
        descriptorOk (n + v.size) vs = true := by
  simp [descriptorOk, and_assoc]

/-- The variables of a descriptor lie from the next free offset on, each as long as its bytes. -/
theorem descriptorOk_mem {n : Nat} {vs : List Variable} (h : descriptorOk n vs = true) {v : Variable} (hv : v ∈ vs) :
    n ≤ v.offset ∧ v.bytes.length = v.size := by
  induction vs generalizing n with
  | nil => cases hv
  | cons w vs ih =>
    obtain ⟨hoff, hlen, -, htail⟩ := (descriptorOk_cons _ _ _).mp h
    rcases List.mem_cons.mp hv with rfl | hv
    · exact ⟨hoff.ge, hlen⟩
    · obtain ⟨hle, hvlen⟩ := ih htail hv
      exact ⟨by omega, hvlen⟩

theorem loadVariables_wf {m : Memory} {n : Nat} {vs : List Variable} (h : descriptorOk n vs = true)
    (hwf : Memory.wf m = true) : Memory.wf (loadVariables m vs) = true := by
  induction vs generalizing m n with
  | nil => exact hwf
  | cons v vs ih =>
    obtain ⟨-, hlen, hlast, htail⟩ := (descriptorOk_cons _ _ _).mp h
    rw [variableAddress_eq] at hlast
    exact ih htail (storeBytes_wf hwf (by rw [variableAddress_eq, hlen]; omega))

/-- Bytes of no variable are left as they were. -/
theorem read_loadVariables_outside {m : Memory} {a : Nat} {vs : List Variable}
    (h : ∀ v ∈ vs, ¬(32768 + v.offset ≤ a ∧ a < 32768 + v.offset + v.bytes.length)) :
    Memory.read (loadVariables m vs) a = Memory.read m a := by
  induction vs generalizing m with
  | nil => rfl
  | cons v vs ih =>
    rw [loadVariables, ih fun w hw => h w (by simp [hw])]
    exact read_storeBytes_outside (h v (by simp))

/-- The bytes of a variable are stored, and the variables loaded after it lie above them. -/
theorem read_loadVariables_inside {m : Memory} {n : Nat} {vs : List Variable} (h : descriptorOk n vs = true)
    {v : Variable} (hv : v ∈ vs) {k : Nat} (hk : k < v.bytes.length) :
    Memory.read (loadVariables m vs) (32768 + v.offset + k) = v.bytes[k] := by
  induction vs generalizing m n with
  | nil => cases hv
  | cons w vs ih =>
    obtain ⟨hoff, hlen, -, htail⟩ := (descriptorOk_cons _ _ _).mp h
    rw [loadVariables]
    rcases List.mem_cons.mp hv with rfl | hv
    · rw [read_loadVariables_outside, variableAddress_eq, read_storeBytes_inside _ _ hk]
      intro w hw
      obtain ⟨hle, -⟩ := descriptorOk_mem htail hw
      omega
    · exact ih htail hv

/-! ### The start (R147) -/

/-- A start that gives a state has taken the image, and CheckIC has let the booted state pass. -/
theorem start_next {img : Image} {draw : ResetDraw} {t : State} (h : start img draw = .next t) :
    img.prog.length ≤ Config.maxProgram ∧ descriptorOk 0 img.descriptor = true ∧
      checkIC (boot img draw) = .next t := by
  unfold start at h
  split at h
  · cases h
  · split at h
    · exact ⟨by omega, by assumption, h⟩
    · cases h

/-- CheckIC leaves memory alone (R73). -/
theorem checkIC_mem {s t : State} (h : checkIC s = .next t) : t.mem = s.mem := by
  obtain ⟨-, rfl⟩ | ⟨-, rfl⟩ := checkIC_next h
  · rfl
  · rfl

theorem start_inv {img : Image} {draw : ResetDraw} {t : State} (h : start img draw = .next t) : t.Inv := by
  obtain ⟨hmax, hdesc, hcheck⟩ := start_next h
  exact checkIC_inv (loadVariables_wf hdesc (Memory.ofCells_wf draw.mem)) hmax rfl hcheck

theorem reset_inv : State.reset.Inv := ⟨rfl, by decide, nofun, fun _ => rfl, nofun⟩

/-- An image that fits is booted and checked. -/
theorem start_of_fits {img : Image} {draw : ResetDraw} (hlen : img.prog.length ≤ Config.maxProgram)
    (hdesc : descriptorOk 0 img.descriptor = true) : start img draw = checkIC (boot img draw) := by
  rw [start, if_neg (by omega), if_pos hdesc]

end Machine

open Machine

/-- Settles O22: canonical memories agree entry by entry, from the lowest address on. -/
theorem canonicalMemoryIsUnique : Obligations.CanonicalMemoryIsUnique :=
  ⟨fun _ _ => Memory.eq_of_read_eq, fun _ => Memory.ofCells_of_wf⟩

/-- Settles O15: nothing is loaded at reset, and a start checks the length of PROG, the descriptor and `ic`. -/
theorem invariantHoldsAtStart : Obligations.InvariantHoldsAtStart :=
  ⟨reset_inv, fun _ _ _ => start_inv⟩

/-- Settles O55: the state is written out. -/
theorem resetValues : Obligations.ResetValues := ⟨rfl, rfl, rfl, rfl, rfl⟩

/-- Settles O56: the two refusals, then CheckIC of the booted state at ENTRY. -/
theorem startFollowsResetSequence : Obligations.StartFollowsResetSequence := by
  intro img draw
  refine ⟨fun hlong => if_pos hlong, fun hlen hdesc => ?_, fun hlen hdesc => ?_⟩
  · rw [start, if_neg (show ¬Config.maxProgram < _ from Nat.not_lt.mpr hlen), if_neg (by simp [hdesc])]
  · rw [start_of_fits hlen hdesc]
    refine ⟨fun hover => checkIC_of_gt hover, fun hentry => ?_⟩
    have h8 : ∀ g, (boot img draw).regs.get8 g = draw.regs.get8 g := by intro g; cases g <;> rfl
    have h16 : ∀ h, h = .w0 ∨ h = .w1 ∨ h = .fl ∨ h = .cr →
        (boot img draw).regs.get16 h = draw.regs.get16 h := by
      rintro h (rfl | rfl | rfl | rfl) <;> rfl
    by_cases heq : img.entry.toNat = img.prog.length
    · exact ⟨_, checkIC_of_eq heq, (if_pos heq).symm, rfl, rfl, rfl, rfl, h8, h16, rfl⟩
    · exact ⟨_, checkIC_of_lt (Nat.lt_of_le_of_ne hentry heq), (if_neg heq).symm, rfl, rfl, rfl, rfl, h8, h16, rfl⟩

/-- Settles O57: each byte is read through the stores of the loader. -/
theorem loaderPlacesVariables : Obligations.LoaderPlacesVariables := by
  intro img draw t h
  obtain ⟨-, hdesc, hcheck⟩ := start_next h
  have hbyte : ∀ a, t.byteAt a = Memory.read (loadVariables (Memory.ofCells draw.mem) img.descriptor) a :=
    State.byteAt_of_mem (checkIC_mem hcheck)
  refine ⟨fun v hv k hk => ?_, fun a ha => ?_⟩
  · obtain ⟨-, hlen⟩ := descriptorOk_mem hdesc hv
    rw [hbyte, read_loadVariables_inside hdesc hv (hlen.symm ▸ hk)]
    refine ⟨fun bs hinit => ?_, fun hinit => ?_⟩
    · simp [Variable.bytes, hinit]
    · simp [Variable.bytes, hinit]
  · rw [hbyte, read_loadVariables_outside]
    intro v hv
    obtain ⟨-, hlen⟩ := descriptorOk_mem hdesc hv
    rw [hlen]
    exact ha v hv

end Sys2Proof
end

section
/-! Results in registers (spec/41_alu.md, spec/42_load_store.md section 2): the written register, the advance, and that
nothing else changes, once for each width; the ALU, the comparisons and the register moves follow. -/
namespace Sys2Proof

namespace Machine

/-! ### Falling through after an update (R77) -/

section
variable {s t : State} {c : List Reg} (n : Nat)

theorem fellThrough_fell (hregs : RegsKept (.r16 .ic :: c) s t) (hrest : RestKept s t)
    (hic : t.regs.ic = s.regs.ic) : FellThrough n c s (t.fell n) :=
  ⟨by rw [State.fell_ic, hic], by simpa using hregs, hrest⟩

theorem memKept_of_mem (h : t.mem = s.mem) : MemKept s t := State.byteAt_of_mem h

/-- The advance leaves a written register other than `ic` alone. -/
theorem wrote16_fell {d : Reg16} {v : Nat} (hd : d ≠ .ic) (h : Wrote16 d v s t) : Wrote16 d v s (t.fell n) := by
  rwa [Wrote16, State.fell_read16, if_neg hd]

end

/-- An 8-bit register is written and the instruction falls through. -/
theorem write8_fell (s : State) (d : Reg8) (v : Byte) (n : Nat) :
    ((s.write8 d v).fell n).read8 d = v ∧ FellThrough n [.r8 d] s ((s.write8 d v).fell n) ∧
      MemKept s ((s.write8 d v).fell n) :=
  ⟨by simp, fellThrough_fell n (by simp) (by simp) (by simp), memKept_of_mem rfl⟩

/-- A 16-bit register other than `ic` is written, `zr` by its mode, and the instruction falls through. -/
theorem write16_fell (s : State) {d : Reg16} (hd : d ≠ .ic) (v : Word) (n : Nat) :
    Wrote16 d v.toNat s ((s.write16 d v).fell n) ∧ FellThrough n [.r16 d] s ((s.write16 d v).fell n) ∧
      MemKept s ((s.write16 d v).fell n) :=
  ⟨wrote16_fell n hd (wrote16_write16 s d v), fellThrough_fell n (by simp) (by simp) (by simp [hd]),
    memKept_of_mem (by simp)⟩

/-! ### Shapes of results (R84), from what exec answers and from the result as a number -/

/-- `x - y` as a number never steps below 0 when the modulus is added first (R85). -/
theorem subW_toNat_add_sub (n : Nat) (x y : BitVec n) : (subW n x y).toNat = (x.toNat + 2 ^ n - y.toNat) % 2 ^ n := by
  rw [subW_toNat, Nat.add_sub_assoc y.isLt.le]

theorem computes8 {i : Reg → Reg → Instr} {f : Byte → Byte → Byte} {g : Nat → Nat → Nat}
    (hexec : ∀ s d e, exec (i (.r8 d) (.r8 e)) s = .next ((s.write8 d (f (s.read8 d) (s.read8 e))).fell 2))
    (hf : ∀ x y, (f x y).toNat = g x.toNat y.toNat) : Computes8 i g := by
  intro s d e
  obtain ⟨hread, hframe⟩ := write8_fell s d (f (s.read8 d) (s.read8 e)) 2
  exact ⟨_, hexec s d e, by rw [hread, hf], hframe⟩

theorem computesImm8 {i : Reg → Byte → Instr} {f : Byte → Byte → Byte} {g : Nat → Nat → Nat}
    (hexec : ∀ s d imm, exec (i (.r8 d) imm) s = .next ((s.write8 d (f (s.read8 d) imm)).fell 3))
    (hf : ∀ x y, (f x y).toNat = g x.toNat y.toNat) : ComputesImm8 i g := by
  intro s d imm
  obtain ⟨hread, hframe⟩ := write8_fell s d (f (s.read8 d) imm) 3
  exact ⟨_, hexec s d imm, by rw [hread, hf], hframe⟩

theorem computesUnary8 {i : Reg → Instr} {f : Byte → Byte} {g : Nat → Nat}
    (hexec : ∀ s d, exec (i (.r8 d)) s = .next ((s.write8 d (f (s.read8 d))).fell 2))
    (hf : ∀ x, (f x).toNat = g x.toNat) : ComputesUnary8 i g := by
  intro s d
  obtain ⟨hread, hframe⟩ := write8_fell s d (f (s.read8 d)) 2
  exact ⟨_, hexec s d, by rw [hread, hf], hframe⟩

theorem computes16 {i : Reg → Reg → Instr} {f : Word → Word → Word} {g : Nat → Nat → Nat}
    (hexec : ∀ s d e, d ≠ .ic →
      exec (i (.r16 d) (.r16 e)) s = .next ((s.write16 d (f (s.read16 d) (s.read16 e))).fell 2))
    (hf : ∀ x y, (f x y).toNat = g x.toNat y.toNat) : Computes16 i g := by
  intro s d e hd
  rw [← hf]
  exact ⟨_, hexec s d e hd, write16_fell s hd _ 2⟩

theorem computesImm16 {i : Reg → Word → Instr} {f : Word → Word → Word} {g : Nat → Nat → Nat}
    (hexec : ∀ s d imm, d ≠ .ic → exec (i (.r16 d) imm) s = .next ((s.write16 d (f (s.read16 d) imm)).fell 4))
    (hf : ∀ x y, (f x y).toNat = g x.toNat y.toNat) : ComputesImm16 i g := by
  intro s d imm hd
  rw [← hf]
  exact ⟨_, hexec s d imm hd, write16_fell s hd _ 4⟩

theorem computesUnary16 {i : Reg → Instr} {f : Word → Word} {g : Nat → Nat}
    (hexec : ∀ s d, d ≠ .ic → exec (i (.r16 d)) s = .next ((s.write16 d (f (s.read16 d))).fell 2))
    (hf : ∀ x, (f x).toNat = g x.toNat) : ComputesUnary16 i g := by
  intro s d hd
  rw [← hf]
  exact ⟨_, hexec s d hd, write16_fell s hd _ 2⟩

/-! ### Comparisons (R99, R100) -/

theorem compareFlags_cases (n : Nat) (x y : BitVec n) :
    compareFlags n x y = 1 ∨ compareFlags n x y = 2 ∨ compareFlags n x y = 4 := by
  simp only [← BitVec.toNat_inj, compareFlags_toNat]
  split
  · exact .inl rfl
  · split
    · exact .inr (.inl rfl)
    · exact .inr (.inr rfl)

theorem compared_setFl (s : State) (n w : Nat) (x y : BitVec w) :
    Compared n x.toNat y.toNat s ((s.setFl (compareFlags w x y)).fell n) := by
  refine ⟨?_, fellThrough_fell n (by simp) (by simp) rfl, memKept_of_mem rfl⟩
  rw [State.fell_fl, State.setFl_fl, compareFlags_toNat]
  rcases Nat.lt_trichotomy x.toNat y.toNat with h | h | h
  · simp [h, h.ne, h.asymm]
  · simp [h]
  · simp [h, h.ne', h.asymm]

/-- An equality that gives a next state compares two operands `x` and `y`, which are immediates or registers that its
fields name, and writes `fl`. -/
theorem exec_equality_next {i : Instr} {s t : State} (hi : i.isEquality = true) (h : exec i s = .next t) :
    ∃ (w : Nat) (x y : State → BitVec w),
      (∀ u, exec i u = .next ((u.setFl (compareFlags w (x u) (y u))).fell i.length)) ∧
      ∀ u, (∀ f ∈ i.operandFields, u.read f.reg = s.read f.reg) → x u = x s ∧ y u = y s := by
  cases i with
  | eqr8 a b =>
    obtain ⟨d, rfl, h⟩ := withReg8_next h
    obtain ⟨e, rfl, -⟩ := withReg8_next h
    exact ⟨8, (·.read8 d), (·.read8 e), fun _ => rfl, fun u hu => by simpa [Instr.operandFields] using hu⟩
  | eqr16 a b =>
    obtain ⟨d, rfl, h⟩ := withReg16_next h
    obtain ⟨e, rfl, -⟩ := withReg16_next h
    exact ⟨16, (·.read16 d), (·.read16 e), fun _ => rfl, fun u hu => by simpa [Instr.operandFields] using hu⟩
  | eqi8 a imm =>
    obtain ⟨d, rfl, -⟩ := withReg8_next h
    exact ⟨8, (·.read8 d), fun _ => imm, fun _ => rfl, fun u hu => by simpa [Instr.operandFields] using hu⟩
  | eqi16 a imm =>
    obtain ⟨d, rfl, -⟩ := withReg16_next h
    exact ⟨16, (·.read16 d), fun _ => imm, fun _ => rfl, fun u hu => by simpa [Instr.operandFields] using hu⟩
  | _ => cases hi

/-- A comparison changes `fl` and `ic` only. -/
theorem setFl_fell_read (s : State) (v : Word) (n : Nat) {r : Reg} (hfl : r ≠ .r16 .fl) (hic : r ≠ .r16 .ic) :
    ((s.setFl v).fell n).read r = s.read r := by
  have hkept : RegsKept [.r16 .ic, .r16 .fl] s ((s.setFl v).fell n) := by simp
  exact hkept r (by simp [hfl, hic])

end Machine

open Machine

/-- Settles O21: a write reads back, and the frame of a write has the written register only. -/
theorem registerWritesAreRead : Obligations.RegisterWritesAreRead :=
  ⟨fun s g v => ⟨by simp, by simp⟩, fun s h v => ⟨wrote16_write16 s h v, by simp⟩⟩

/-- Settles O23: the five operations in the register shape of width 8. -/
theorem registerAluResults8 : Obligations.RegisterAluResults8 :=
  ⟨computes8 (fun _ _ _ => rfl) (addW_toNat 8), computes8 (fun _ _ _ => rfl) (subW_toNat_add_sub 8),
    computes8 (fun _ _ _ => rfl) (andW_toNat 8), computes8 (fun _ _ _ => rfl) (orW_toNat 8),
    computes8 (fun _ _ _ => rfl) (xorW_toNat 8)⟩

/-- Settles O24: the five operations in the register shape of width 16; the destination passes its check. -/
theorem registerAluResults16 : Obligations.RegisterAluResults16 :=
  ⟨computes16 (fun _ _ _ hd => if_neg hd) (addW_toNat 16),
    computes16 (fun _ _ _ hd => if_neg hd) (subW_toNat_add_sub 16),
    computes16 (fun _ _ _ hd => if_neg hd) (andW_toNat 16), computes16 (fun _ _ _ hd => if_neg hd) (orW_toNat 16),
    computes16 (fun _ _ _ hd => if_neg hd) (xorW_toNat 16)⟩

/-- Settles O25: the five operations in the immediate shape of width 8. -/
theorem immediateAluResults8 : Obligations.ImmediateAluResults8 :=
  ⟨computesImm8 (fun _ _ _ => rfl) (addW_toNat 8), computesImm8 (fun _ _ _ => rfl) (subW_toNat_add_sub 8),
    computesImm8 (fun _ _ _ => rfl) (andW_toNat 8), computesImm8 (fun _ _ _ => rfl) (orW_toNat 8),
    computesImm8 (fun _ _ _ => rfl) (xorW_toNat 8)⟩

/-- Settles O26: the five operations in the immediate shape of width 16. -/
theorem immediateAluResults16 : Obligations.ImmediateAluResults16 :=
  ⟨computesImm16 (fun _ _ _ hd => if_neg hd) (addW_toNat 16),
    computesImm16 (fun _ _ _ hd => if_neg hd) (subW_toNat_add_sub 16),
    computesImm16 (fun _ _ _ hd => if_neg hd) (andW_toNat 16), computesImm16 (fun _ _ _ hd => if_neg hd) (orW_toNat 16),
    computesImm16 (fun _ _ _ hd => if_neg hd) (xorW_toNat 16)⟩

/-- Settles O27: the three operations in the unary shapes of both widths. -/
theorem unaryAluResults : Obligations.UnaryAluResults :=
  ⟨computesUnary8 (fun _ _ => rfl) (notW_toNat 8), computesUnary8 (fun _ _ => rfl) (incW_toNat 8),
    computesUnary8 (fun _ _ => rfl) (decW_toNat 8), computesUnary16 (fun _ _ hd => if_neg hd) (notW_toNat 16),
    computesUnary16 (fun _ _ hd => if_neg hd) (incW_toNat 16),
    computesUnary16 (fun _ _ hd => if_neg hd) (decW_toNat 16)⟩

/-- Settles O28: each of the four writes `fl` with the flags of its operands. -/
theorem equalitySetsFlags : Obligations.EqualitySetsFlags :=
  ⟨fun s d e => ⟨_, rfl, compared_setFl s 2 8 (s.read8 d) (s.read8 e)⟩,
    fun s d e => ⟨_, rfl, compared_setFl s 2 16 (s.read16 d) (s.read16 e)⟩,
    fun s d imm => ⟨_, rfl, compared_setFl s 3 8 (s.read8 d) imm⟩,
    fun s d imm => ⟨_, rfl, compared_setFl s 4 16 (s.read16 d) imm⟩⟩

/-- Settles O29: the second run compares the same operands, since the first changes `fl` and `ic` only. -/
theorem equalityIsIdempotent : Obligations.EqualityIsIdempotent := by
  refine ⟨fun i s t hi h => ?_, fun i s t u hi h hu hfields => ?_⟩
  · obtain ⟨w, x, y, hexec, -⟩ := exec_equality_next hi h
    obtain rfl : _ = t := by simpa [hexec s] using h
    exact compareFlags_cases w (x s) (y s)
  · obtain ⟨w, x, y, hexec, hsame⟩ := exec_equality_next hi h
    obtain rfl : _ = t := by simpa [hexec s] using h
    obtain rfl : _ = u := by simpa [hexec _] using hu
    obtain ⟨hx, hy⟩ := hsame _ fun f hf => setFl_fell_read s _ _ (hfields f hf).1 (hfields f hf).2
    rw [State.fell_fl, State.setFl_fl, State.fell_fl, State.setFl_fl, hx, hy]

/-- Settles O35: a register move or immediate is a written register. -/
theorem registerStores : Obligations.RegisterStores :=
  ⟨fun s d e => ⟨_, rfl, write8_fell s d (s.read8 e) 2⟩,
    fun s _ e hd => ⟨_, if_neg hd, write16_fell s hd (s.read16 e) 2⟩,
    fun s d imm => ⟨_, rfl, write8_fell s d imm 3⟩,
    fun s _ imm hd => ⟨_, exec_sti16_r16 s hd imm, write16_fell s hd imm 4⟩⟩

end Sys2Proof
end

section
/-! Stores, loads and swaps (spec/42_load_store.md R107 to R110): the bytes that are stored or read, what else is kept,
and MemoryBounds for a two-byte access at 65535 (spec/20_memory.md R38). -/
namespace Sys2Proof

namespace Machine

/-! ### Stored bytes -/

/-- A byte is stored and the instruction falls through. -/
theorem memWrite8_fell (s : State) (a : Word) (v : Byte) (n : Nat) :
    ((s.memWrite8 a v).fell n).byteAt a.toNat = v ∧ MemKeptOutside a.toNat 1 s ((s.memWrite8 a v).fell n) ∧
      FellThrough n [] s ((s.memWrite8 a v).fell n) :=
  ⟨(s.memWrite8_byteAt a v a.toNat).trans (if_pos rfl), memKeptOutside_memWrite8 s a v,
    fellThrough_fell n (by simp) (by simp) rfl⟩

/-- Whatever is done to registers afterwards, the two bytes of a stored word are held, and no other byte has changed. -/
theorem stored16 {s t : State} {a v : Word} (h : t.mem = (s.store16 a v).mem) :
    Holds16 a.toNat v t ∧ MemKeptOutside a.toNat 2 s t := by
  have hbyte := State.byteAt_of_mem h
  obtain ⟨hlow, hhigh⟩ := holds16_store16 s a v
  exact ⟨⟨by rw [hbyte, hlow], by rw [hbyte, hhigh]⟩, fun b hb => by rw [hbyte, memKeptOutside_store16 s a v b hb]⟩

/-! ### Two-byte accesses at 65535 and below -/

section
variable {s : State} {a : Word}

theorem State.memRead16_of_ne (h : a ≠ 65535) (k : Word → Result) :
    s.memRead16 a k = k (le16 (s.byteAt a.toNat) (s.byteAt (a.toNat + 1))) := by
  rw [State.memRead16_eq, if_neg h]

theorem State.memRead16_of_eq (h : a = 65535) (k : Word → Result) :
    s.memRead16 a k = .fault (.memoryBounds 65535 2) := by
  rw [State.memRead16_eq, if_pos h, h]

theorem State.memWrite16_of_ne (h : a ≠ 65535) (v : Word) (k : State → Result) :
    s.memWrite16 a v k = k (s.store16 a v) := by
  rw [State.memWrite16_eq, if_neg h]

theorem State.memWrite16_of_eq (h : a = 65535) (v : Word) (k : State → Result) :
    s.memWrite16 a v k = .fault (.memoryBounds 65535 2) := by
  rw [State.memWrite16_eq, if_pos h, h]

end

/-- A store of width 16 is the two-byte write (R107). -/
theorem exec_stmr16_r16 (s : State) (addr : Word) (e : Reg16) :
    exec (.stmr16 addr (.r16 e)) s = s.memWrite16 addr (s.read16 e) fun t => .next (t.fell 4) := rfl

/-- A load of width 16 is the two-byte read, once its destination has passed (R109). -/
theorem exec_ld16_r16 (s : State) {d : Reg16} (hd : d ≠ .ic) (addr : Word) :
    exec (.ld16 (.r16 d) addr) s = s.memRead16 addr fun v => .next ((s.write16 d v).fell 4) :=
  if_neg hd

/-- A swap of width 16, once both destinations have passed (R110). -/
theorem exec_swp16_r16 (s : State) {d e : Reg16} (hd : d ≠ .ic) (he : e ≠ .ic) :
    exec (.swp16 (.r16 d) (.r16 e)) s =
      .next (((s.write16 d (s.read16 e)).write16 e (s.read16 d)).fell 2) :=
  (if_neg hd).trans (if_neg he)

/-! ### Swaps -/

/-- After both writes the first register holds the second's old value, also where they are one register. -/
theorem swapped8 (s : State) (d e : Reg8) :
    ((s.write8 d (s.read8 e)).write8 e (s.read8 d)).read8 d = s.read8 e := by
  by_cases hde : d = e
  · simp [hde]
  · simp [hde]

theorem swapped16 (s : State) (d e : Reg16) :
    Wrote16 d (s.read16 e).toNat s ((s.write16 d (s.read16 e)).write16 e (s.read16 d)) := by
  rw [wrote16_iff, State.write16_read16, State.write16_read16]
  by_cases hde : d = e
  · subst hde
    rw [if_pos rfl, State.zrFixed, State.write16_params, ← State.zrFixed]
    split <;> rfl
  · rw [if_neg hde, if_pos rfl]
    split <;> rfl

end Machine

open Machine

/-- Settles O36: a one-byte store is inside memory at every address. -/
theorem byteStores : Obligations.ByteStores :=
  ⟨fun s addr e => ⟨_, rfl, memWrite8_fell s addr (s.read8 e) 4⟩,
    fun s addr imm => ⟨_, rfl, memWrite8_fell s addr imm 4⟩⟩

/-- Settles O37: a two-byte store below 65535 and at it. -/
theorem wordStores : Obligations.WordStores := by
  intro s addr e
  refine ⟨fun ha => ⟨_, (exec_stmr16_r16 s addr e).trans (State.memWrite16_of_ne ha _ _), ?_⟩,
    fun ha => (exec_stmr16_r16 s addr e).trans (State.memWrite16_of_eq ha _ _)⟩
  obtain ⟨hheld, hkept⟩ := stored16 (t := (s.store16 addr (s.read16 e)).fell 4) rfl
  exact ⟨hheld, hkept, fellThrough_fell 4 (by simp) (by simp) rfl⟩

/-- Settles O38: the destination takes the byte, or the two bytes below 65535. -/
theorem loads : Obligations.Loads := by
  refine ⟨fun s d addr => ⟨_, rfl, write8_fell s d (s.byteAt addr.toNat) 4⟩, fun s d addr hd => ?_⟩
  refine ⟨fun ha => ⟨_, (exec_ld16_r16 s hd addr).trans (State.memRead16_of_ne ha _), ?_⟩,
    fun ha => (exec_ld16_r16 s hd addr).trans (State.memRead16_of_eq ha _)⟩
  rw [← le16_toNat]
  exact write16_fell s hd _ 4

/-- Settles O39: both operands are read before either is written. -/
theorem swaps : Obligations.Swaps := by
  refine ⟨fun s d e => ⟨_, rfl, ?_⟩, fun s d e hd he => ⟨_, exec_swp16_r16 s hd he, ?_⟩⟩
  · exact ⟨by rw [State.fell_read8, swapped8], by simp, fellThrough_fell 2 (by simp) (by simp) (by simp),
      memKept_of_mem rfl⟩
  · have hsecond : Wrote16 e (s.read16 d).toNat s ((s.write16 d (s.read16 e)).write16 e (s.read16 d)) := by
      simpa [Wrote16] using wrote16_write16 (s.write16 d (s.read16 e)) e (s.read16 d)
    exact ⟨wrote16_fell 2 hd (swapped16 s d e), wrote16_fell 2 he hsecond,
      fellThrough_fell 2 (by simp) (by simp) (by simp [hd, he]), memKept_of_mem (by simp)⟩

end Sys2Proof
end

section
/-! Pushes, pops and the variable pointer (spec/43_stack_variable.md R113 to R118). `sp` wraps modulo 65536, and a
two-byte access at 65535 is MemoryBounds. -/
namespace Sys2Proof

namespace Machine

/-! ### `sp` as a number -/

theorem Word.toNat_add_one (x : Word) : (x + 1).toNat = (x.toNat + 1) % 65536 := BitVec.toNat_add x 1

theorem Word.toNat_add_two (x : Word) : (x + 2).toNat = (x.toNat + 2) % 65536 := BitVec.toNat_add x 2

theorem Word.toNat_sub_one (x : Word) : (x - 1).toNat = (x.toNat + 65535) % 65536 := by
  rw [BitVec.toNat_sub, Nat.add_comm]; rfl

theorem Word.toNat_sub_two (x : Word) : (x - 2).toNat = (x.toNat + 65534) % 65536 := by
  rw [BitVec.toNat_sub, Nat.add_comm]; rfl

/-- `sp` stepped back by 2 is 65535 exactly when it was 1 (R115). -/
theorem Word.sub_two_eq_iff (x : Word) : x - 2 = 65535 ↔ x = 1 := by
  rw [BitVec.sub_eq_iff_eq_add]; rfl

/-! ### Pushes (R113, R114) -/

/-- A byte is pushed and the instruction falls through. -/
theorem push8_fell (s : State) (v : Byte) :
    ((s.push8 v).fell 2).byteAt s.regs.sp.toNat = v ∧
      MemKeptOutside s.regs.sp.toNat 1 s ((s.push8 v).fell 2) ∧
      ((s.push8 v).fell 2).regs.sp.toNat = (s.regs.sp.toNat + 1) % 65536 ∧
      FellThrough 2 [.r16 .sp] s ((s.push8 v).fell 2) :=
  ⟨(s.memWrite8_byteAt s.regs.sp v _).trans (if_pos rfl), memKeptOutside_memWrite8 s s.regs.sp v,
    Word.toNat_add_one s.regs.sp, fellThrough_fell 2 (by simp [State.push8]) (by simp) rfl⟩

/-- The state with a word pushed. -/
def State.pushed16 (s : State) (v : Word) : State := (s.store16 s.regs.sp v).setSp (s.regs.sp + 2)

section
variable {s : State}

theorem State.push16_of_ne (h : s.regs.sp ≠ 65535) (v : Word) (k : State → Result) :
    s.push16 v k = k (s.pushed16 v) := by
  rw [State.push16_eq, if_neg h, State.pushed16]

theorem State.push16_of_eq (h : s.regs.sp = 65535) (v : Word) (k : State → Result) :
    s.push16 v k = .fault (.memoryBounds 65535 2) := by
  rw [State.push16_eq, if_pos h, h]

/-- A two-byte push that goes on has found room below 65535. -/
theorem State.push16_next {v : Word} {f : State → State} {t : State}
    (h : s.push16 v (fun u => .next (f u)) = .next t) : s.regs.sp ≠ 65535 ∧ t = f (s.pushed16 v) := by
  by_cases hsp : s.regs.sp = 65535
  · rw [State.push16_of_eq hsp] at h
    cases h
  · rw [State.push16_of_ne hsp] at h
    injection h with h
    exact ⟨hsp, h.symm⟩

end

/-- A word is pushed and the instruction falls through. -/
theorem pushed16_fell (s : State) (v : Word) (n : Nat) :
    Holds16 s.regs.sp.toNat v ((s.pushed16 v).fell n) ∧
      MemKeptOutside s.regs.sp.toNat 2 s ((s.pushed16 v).fell n) ∧
      ((s.pushed16 v).fell n).regs.sp.toNat = (s.regs.sp.toNat + 2) % 65536 ∧
      FellThrough n [.r16 .sp] s ((s.pushed16 v).fell n) := by
  obtain ⟨hheld, hkept⟩ := stored16 (t := (s.pushed16 v).fell n) rfl
  exact ⟨hheld, hkept, Word.toNat_add_two s.regs.sp,
    fellThrough_fell n (by simp [State.pushed16]) (by simp [State.pushed16]) rfl⟩

theorem exec_push16_r16 (s : State) (e : Reg16) :
    exec (.push16 (.r16 e)) s = s.push16 (s.read16 e) fun t => .next (t.fell 2) := rfl

theorem exec_pushi16 (s : State) (imm : Word) : exec (.pushi16 imm) s = s.push16 imm fun t => .next (t.fell 3) := rfl

/-! ### Pops (R115) -/

/-- The state with `sp` stepped back by a word. -/
def State.popped16 (s : State) : State := s.setSp (s.regs.sp - 2)

/-- The word below `sp`. -/
def State.top16 (s : State) : Word :=
  le16 (s.byteAt (s.regs.sp - 2).toNat) (s.byteAt ((s.regs.sp - 2).toNat + 1))

theorem State.pop16_of_ne {s : State} (h : s.regs.sp ≠ 1) (k : State → Word → Result) :
    s.pop16 k = k s.popped16 s.top16 := by
  rw [State.pop16_eq, if_neg (mt (Word.sub_two_eq_iff s.regs.sp).mp h), State.popped16, State.top16]

theorem State.pop16_of_eq {s : State} (h : s.regs.sp = 1) (k : State → Word → Result) :
    s.pop16 k = .fault (.memoryBounds 65535 2) := by
  rw [State.pop16_eq, if_pos ((Word.sub_two_eq_iff s.regs.sp).mpr h), h]; rfl

theorem State.top16_toNat (s : State) :
    s.top16.toNat = (s.byteAt ((s.regs.sp.toNat + 65534) % 65536)).toNat +
      256 * (s.byteAt ((s.regs.sp.toNat + 65534) % 65536 + 1)).toNat := by
  rw [State.top16, le16_toNat, Word.toNat_sub_two]

/-- A pop of width 16 is the two-byte pop, once its destination has passed. -/
theorem exec_pop16_r16 (s : State) {d : Reg16} (hd : d ≠ .ic) :
    exec (.pop16 (.r16 d)) s = s.pop16 fun t v => .next ((t.write16 d v).fell 2) :=
  if_neg hd

/-- The state after `pop.8` into an 8-bit register. -/
def State.popped8 (s : State) (d : Reg8) : State :=
  ((s.setSp (s.regs.sp - 1)).write8 d (s.byteAt (s.regs.sp - 1).toNat)).fell 2

theorem exec_pop8_r8 (s : State) (d : Reg8) : exec (.pop8 (.r8 d)) s = .next (s.popped8 d) := rfl

@[simp] theorem State.popped8_sp (s : State) (d : Reg8) : (s.popped8 d).regs.sp = s.regs.sp - 1 := by
  simp [State.popped8]

@[simp] theorem State.popped8_mem (s : State) (d : Reg8) : (s.popped8 d).mem = s.mem := rfl

@[simp] theorem State.popped8_read8 (s : State) (d e : Reg8) :
    (s.popped8 d).read8 e = if e = d then s.byteAt (s.regs.sp - 1).toNat else s.read8 e := by
  simp [State.popped8]

/-! ### A pop after a push (R41) -/

/-- The word below `sp` is the one that is held there. -/
theorem State.top16_of_holds16 {u : State} {a v : Word} (hsp : u.regs.sp = a + 2) (h : Holds16 a.toNat v u) :
    u.top16 = v := by
  obtain ⟨hlow, hhigh⟩ := h
  have hback : u.regs.sp - 2 = a := hsp ▸ BitVec.add_sub_cancel a 2
  apply BitVec.eq_of_toNat_eq
  rw [State.top16, hback, le16_toNat, hlow, hhigh]
  omega

/-- After a push below 65535 `sp` is not 1, so that the pop is in bounds. -/
theorem Word.add_two_ne_one {x : Word} (h : x ≠ 65535) : x + 2 ≠ 1 := by
  intro hc
  have := (Word.sub_two_eq_iff (x + 2)).mpr hc
  rw [BitVec.add_sub_cancel] at this
  exact h this

/-! ### The variable pointer (R116 to R118) -/

theorem setVp_fell (s : State) (v : Word) (n : Nat) :
    FellThrough n [.r16 .vp] s ((s.setVp v).fell n) ∧ MemKept s ((s.setVp v).fell n) :=
  ⟨fellThrough_fell n (by simp) (by simp) rfl, memKept_of_mem rfl⟩

theorem varBase_add_toNat (x : Word) : (Config.varBase + x).toNat = (32768 + x.toNat) % 65536 :=
  BitVec.toNat_add Config.varBase x

/-- An 8-bit offset from the variable base does not wrap. -/
theorem varBase_add_setWidth_toNat (x : Byte) : (Config.varBase + x.setWidth 16).toNat = 32768 + x.toNat := by
  have := x.isLt
  rw [varBase_add_toNat, BitVec.toNat_setWidth]
  omega

end Machine

open Machine

/-- Settles O40: the byte is stored at the old `sp`, wherever that is. -/
theorem bytePushes : Obligations.BytePushes :=
  ⟨fun s e => ⟨_, rfl, push8_fell s (s.read8 e)⟩, fun s imm => ⟨_, rfl, push8_fell s imm⟩⟩

/-- Settles O41: the word is stored at the old `sp` below 65535, and nowhere at it. -/
theorem wordPushes : Obligations.WordPushes := by
  refine ⟨fun s e => ⟨fun hsp => ⟨_, ?_, pushed16_fell s (s.read16 e) 2⟩, fun hsp => ?_⟩,
    fun s imm => ⟨fun hsp => ⟨_, ?_, pushed16_fell s imm 3⟩, fun hsp => ?_⟩⟩
  · rw [exec_push16_r16, State.push16_of_ne hsp]
  · rw [exec_push16_r16, State.push16_of_eq hsp]
  · rw [exec_pushi16, State.push16_of_ne hsp]
  · rw [exec_pushi16, State.push16_of_eq hsp]

/-- Settles O42: the byte below `sp` is read after `sp` has stepped back. -/
theorem bytePops : Obligations.BytePops := by
  intro s d
  refine ⟨_, exec_pop8_r8 s d, ?_, ?_, ?_, memKept_of_mem rfl⟩
  · rw [State.popped8_sp, Word.toNat_sub_one]
  · rw [State.popped8_read8, if_pos rfl, State.popped8_sp]
  · exact fellThrough_fell 2 (by simp) (by simp) (by simp)

/-- Settles O43: the word below `sp` goes to the destination after `sp` has stepped back, unless `sp` was 1. -/
theorem wordPops : Obligations.WordPops := by
  intro s d hd
  refine ⟨fun hsp => ⟨_, (exec_pop16_r16 s hd).trans (State.pop16_of_ne hsp _), ?_⟩,
    fun hsp => (exec_pop16_r16 s hd).trans (State.pop16_of_eq hsp _)⟩
  rw [← State.top16_toNat]
  refine ⟨wrote16_fell 2 hd (wrote16_write16 s.popped16 d s.top16), fun hne => ?_, ?_, memKept_of_mem ?_⟩
  · rw [State.fell_sp, State.write16_sp, if_neg hne, State.popped16, State.setSp_sp, Word.toNat_sub_two]
  · exact fellThrough_fell 2 (by simp [State.popped16]) (by simp [State.popped16]) (by simp [State.popped16, hd])
  · simp [State.popped16]

/-- Settles O44: the pushed word is the one below `sp`, as a word or byte by byte from the top. -/
theorem popsUndoPushes : Obligations.PopsUndoPushes := by
  refine ⟨fun s t e d hd hdsp h => ?word, fun s t e g k hgk h => ?bytes⟩
  case word =>
    obtain ⟨hsp, rfl⟩ := State.push16_next (f := (·.fell 2)) h
    refine ⟨_, (exec_pop16_r16 _ hd).trans (State.pop16_of_ne (Word.add_two_ne_one hsp) _), ?_, ?_⟩
    · obtain ⟨hheld, -⟩ := pushed16_fell s (s.read16 e) 2
      rw [State.top16_of_holds16 rfl hheld]
      exact wrote16_fell 2 hd (wrote16_write16 _ d (s.read16 e))
    · rw [State.fell_sp, State.write16_sp, if_neg hdsp]
      exact BitVec.add_sub_cancel s.regs.sp 2
  case bytes =>
    obtain ⟨hsp, rfl⟩ := State.push16_next (f := (·.fell 2)) h
    obtain ⟨⟨hlow, hhigh⟩, -⟩ := pushed16_fell s (s.read16 e) 2
    generalize ht : (s.pushed16 (s.read16 e)).fell 2 = t at hlow hhigh ⊢
    have htsp : t.regs.sp = s.regs.sp + 2 := ht ▸ rfl
    have hlast : t.regs.sp - 1 - 1 = s.regs.sp := by rw [htsp]; bv_omega
    have hfirst : (t.regs.sp - 1).toNat = s.regs.sp.toNat + 1 := by rw [htsp]; bv_omega
    refine ⟨_, exec_pop8_r8 t g, _, exec_pop8_r8 _ k, ?_, ?_, ?_⟩
    · rw [State.popped8_read8, if_neg hgk, State.popped8_read8, if_pos rfl, hfirst, hhigh]
    · rw [State.popped8_read8, if_pos rfl, State.popped8_sp, hlast, State.byteAt_of_mem (t.popped8_mem g), hlow]
    · rw [State.popped8_sp, State.popped8_sp, hlast]

/-- Settles O45: the offset is added to the variable base. -/
theorem variablePointerLoads : Obligations.VariablePointerLoads :=
  ⟨fun s e => ⟨_, rfl, varBase_add_setWidth_toNat (s.read8 e), setVp_fell s _ 2⟩,
    fun s e => ⟨_, rfl, varBase_add_toNat (s.read16 e), setVp_fell s _ 2⟩,
    fun s imm => ⟨_, rfl, varBase_add_setWidth_toNat imm, setVp_fell s _ 2⟩,
    fun s imm => ⟨_, rfl, varBase_add_toNat imm, setVp_fell s _ 3⟩,
    fun s => ⟨_, rfl, rfl, setVp_fell s _ 1⟩⟩

end Sys2Proof
end

section
/-! Branches, calls and returns (spec/44_branch_call.md R119 to R128), up to the loop's check of a target (R120). -/
namespace Sys2Proof

namespace Machine

/-! ### Branches -/

/-- A branch sets `ic`, to the target or 3 further, and nothing else. -/
theorem branchIf_follows (s : State) (target : Word) {taken : Bool} {c : Prop} [Decidable c]
    (h : taken = true ↔ c) :
    ∃ t, branchIf taken target s = .next t ∧ t.regs.ic = (if c then target else s.regs.ic + 3) ∧
      RegsKept [.r16 .ic] s t ∧ RestKept s t ∧ MemKept s t := by
  cases taken with
  | true => exact ⟨s.jumped target, rfl, (if_pos (h.mp rfl)).symm, by simp, by simp, memKept_of_mem rfl⟩
  | false =>
    have hc : ¬c := fun hc => Bool.false_ne_true (h.mpr hc)
    exact ⟨s.fell 3, rfl, (if_neg hc).symm, by simp, by simp, memKept_of_mem rfl⟩

/-! The bits of `fl` that a branch reads, as numbers (R20). -/

theorem State.flE_iff (s : State) : s.flE = true ↔ s.regs.fl.toNat % 2 = 1 := by
  simp [State.flE, BitVec.getLsbD, Nat.testBit_eq_decide_div_mod_eq]

theorem State.not_flE_iff (s : State) : (!s.flE) = true ↔ s.regs.fl.toNat % 2 = 0 := by
  rw [Bool.not_eq_true', ← Bool.not_eq_true, State.flE_iff]
  omega

theorem State.flG_iff (s : State) : s.flG = true ↔ s.regs.fl.toNat / 2 % 2 = 1 := by
  simp [State.flG, BitVec.getLsbD, Nat.testBit_eq_decide_div_mod_eq]

theorem State.flL_iff (s : State) : s.flL = true ↔ s.regs.fl.toNat / 4 % 2 = 1 := by
  simp [State.flL, BitVec.getLsbD, Nat.testBit_eq_decide_div_mod_eq]

/-- The step of a `jmp` is the loop's check of its target (R120). -/
theorem step_jmp {s : State} {target : Word} {rest : List Byte} (hr : s.status = .running)
    (hbytes : s.fetchBytes = encode (.jmp target) ++ rest) : step s = checkIC (s.jumped target) := by
  have hd : decode s.fetchBytes = .ok (.jmp target, rest) := by rw [hbytes, decode_encode]
  rw [step_of_decode_ok hr hd, exec, execJmp, afterExec, State.jumped_status, hr]

/-! ### Calls and returns -/

theorem exec_call (s : State) (target : Word) :
    exec (.call target) s = s.push16 (s.regs.ic + 3) fun u => .next (u.jumped target) := rfl

theorem exec_ret (s : State) : exec .ret s = s.pop16 fun u t => .next (u.jumped t) := rfl

end Machine

open Machine

/-- Settles O46: each branch by the bit that it reads. -/
theorem branchesFollowTheirFlag : Obligations.BranchesFollowTheirFlag := fun s target =>
  ⟨⟨s.jumped target, rfl, rfl, by simp, by simp, memKept_of_mem rfl⟩,
    branchIf_follows s target s.flE_iff, branchIf_follows s target s.not_flE_iff,
    branchIf_follows s target s.flG_iff, branchIf_follows s target s.flL_iff⟩

/-- Settles O47: the three cases of CheckIC at the target. -/
theorem jumpTargetsAreCheckedByTheLoop : Obligations.JumpTargetsAreCheckedByTheLoop := by
  intro s target rest hr hbytes
  have hkept : RegsKept [.r16 .ic] s (s.jumped target) := by simp
  simp only [Steps, step_jmp hr hbytes]
  refine ⟨fun hlt => ?_, fun heq => ?_, fun hgt => checkIC_of_gt hgt⟩
  · exact ⟨_, checkIC_of_lt hlt, rfl, hr, hkept, memKept_of_mem rfl⟩
  · exact ⟨_, checkIC_of_eq heq, rfl, rfl, hkept, memKept_of_mem rfl⟩

/-- Settles O48: the return address is pushed below 65535, and then `ic` is set. -/
theorem callPushesReturnAddress : Obligations.CallPushesReturnAddress := by
  intro s target
  refine ⟨fun hsp => ⟨_, (exec_call s target).trans (State.push16_of_ne hsp _ _), ?_⟩,
    fun hsp => (exec_call s target).trans (State.push16_of_eq hsp _ _)⟩
  obtain ⟨hheld, hkept⟩ := stored16 (t := (s.pushed16 (s.regs.ic + 3)).jumped target) rfl
  exact ⟨hheld, hkept, Word.toNat_add_two s.regs.sp, rfl, by simp [State.pushed16], by simp [State.pushed16]⟩

/-- Settles O49: `ic` takes the word below `sp`, unless `sp` was 1. -/
theorem retPopsTarget : Obligations.RetPopsTarget := by
  intro s
  refine ⟨fun hsp => ⟨_, (exec_ret s).trans (State.pop16_of_ne hsp _), ?_⟩,
    fun hsp => (exec_ret s).trans (State.pop16_of_eq hsp _)⟩
  have hback : (s.popped16.jumped s.top16).regs.sp.toNat = (s.regs.sp.toNat + 65534) % 65536 :=
    Word.toNat_sub_two s.regs.sp
  refine ⟨hback, ?_, by simp [State.popped16], by simp [State.popped16], memKept_of_mem rfl⟩
  rw [hback, ← State.top16_toNat, State.jumped_ic]

/-- Settles O50: the return slot holds the address that the call pushed, and `ret` takes it from there. -/
theorem retReturnsPastCall : Obligations.RetReturnsPastCall := by
  intro s t u target h husp hlow hhigh
  obtain ⟨hsp, rfl⟩ := State.push16_next (f := (·.jumped target)) h
  obtain ⟨⟨htlow, hthigh⟩, -⟩ := stored16 (t := (s.pushed16 (s.regs.ic + 3)).jumped target) rfl
  have husp : u.regs.sp = s.regs.sp + 2 := husp
  have hheld : Holds16 s.regs.sp.toNat (s.regs.ic + 3) u := ⟨by rw [hlow, htlow], by rw [hhigh, hthigh]⟩
  have hroom : u.regs.sp ≠ 1 := husp ▸ Word.add_two_ne_one hsp
  refine ⟨_, (exec_ret u).trans (State.pop16_of_ne hroom _), State.top16_of_holds16 husp hheld, ?_⟩
  rw [State.jumped_sp, State.popped16, State.setSp_sp, husp, BitVec.add_sub_cancel]

end Sys2Proof
end

section
/-! The syscall trap (spec/44_branch_call.md R129, spec/60_exceptions.md R135 to R137): what each answer of the host does,
and where the answer comes from. -/
namespace Sys2Proof

namespace Machine

/-! ### Where the answer comes from -/

section
variable {s : State}

theorem State.hostAnswer_of_script {a : HostAnswer} {rest : List HostAnswer} (h : s.hostScript = a :: rest) :
    s.hostAnswer = a := by
  simp only [State.hostAnswer, h]

theorem State.hostAnswered_of_script {a : HostAnswer} {rest : List HostAnswer} (h : s.hostScript = a :: rest) :
    s.hostAnswered = { s with hostScript := rest } := by
  simp only [State.hostAnswered, h]

theorem State.hostAnswer_of_nil (h : s.hostScript = []) :
    s.hostAnswer = Config.host s.draws (s.read s.params.nrSel.reg) s.regView s.mem := by
  simp only [State.hostAnswer, h]

theorem State.hostAnswered_of_nil (h : s.hostScript = []) : s.hostAnswered = { s with draws := s.draws + 1 } := by
  simp only [State.hostAnswered, h]

end

/-! ### What each answer does -/

theorem exec_syscall_of_answer {s : State} {a : HostAnswer} (h : s.hostAnswer = a) :
    exec .syscall s = applyAnswer a s.hostAnswered := by
  rw [exec, execSyscall, h]

/-- The result register takes the value at its own width, `zr` by its mode. -/
theorem State.writeResult_result (s : State) (v : Word) :
    (∀ g, s.params.nrSel.reg = .r8 g → ((s.writeResult v).read8 g).toNat = v.toNat % 256) ∧
      ∀ h, s.params.nrSel.reg = .r16 h → Wrote16 h v.toNat s (s.writeResult v) := by
  refine ⟨fun g hg => ?_, fun h hh => ?_⟩
  · rw [State.writeResult_read8, if_pos hg, BitVec.toNat_setWidth]
  · rw [wrote16_iff, State.writeResult_read16, if_pos hh]
    split <;> rfl

/-- Continue writes the result and memory, and falls 1 through; all else is as the host's answering left it. -/
theorem syscall_continues {s : State} {v : Word} {mem : List Host.Cell} (ha : s.hostAnswer = .cont v mem) :
    Completes .syscall s fun t =>
      (∀ g, s.params.nrSel.reg = .r8 g → (t.read8 g).toNat = v.toNat % 256) ∧
      (∀ h, s.params.nrSel.reg = .r16 h → Wrote16 h v.toNat s t) ∧
      (Memory.wf mem = true → t.mem = mem) ∧ t.mem = Memory.ofCells mem ∧
      t.regs.ic = s.regs.ic + 1 ∧ RegsKept [.r16 .ic, s.params.nrSel.reg] s t ∧
      t.hostScript = s.hostAnswered.hostScript ∧ t.status = s.status ∧ t.params = s.params ∧
      t.draws = s.hostAnswered.draws := by
  have hexec : exec .syscall s = .next (((s.hostAnswered.writeResult v).withMem (Memory.ofCells mem)).fell 1) :=
    exec_syscall_of_answer ha
  obtain ⟨h8, h16⟩ := State.writeResult_result s.hostAnswered v
  rw [State.hostAnswered_params] at h8 h16
  refine ⟨_, hexec, by simpa using h8, fun h hh => ?_, fun hwf => Memory.ofCells_of_wf hwf, rfl, ?_,
    execSyscall_regsKept hexec, ?_, ?_, ?_, ?_⟩
  · have hic : h ≠ .ic := fun hc => s.params.nrSel.notIc (by rw [hh, hc])
    have hwrote := h16 h hh
    rw [Wrote16, State.hostAnswered_params] at hwrote
    exact wrote16_fell 1 hic hwrote
  all_goals simp

theorem exec_syscall_exit {s : State} {code : Nat} (ha : s.hostAnswer = .exit code) :
    exec .syscall s = .next (s.hostAnswered.exited code) := exec_syscall_of_answer ha

theorem exec_syscall_error {s : State} {info : Nat} (ha : s.hostAnswer = .error info) :
    exec .syscall s = .fault (.hostError info) := exec_syscall_of_answer ha

end Machine

/-- The opcode byte 0xEF is `syscall`, which has no operand bytes (R60). -/
theorem decode_syscall (rest : List Byte) : decode (0xEF :: rest) = .ok (.syscall, rest) :=
  decode_encode .syscall rest

open Machine

/-- Settles O51: the scripted answer is used up, and nothing is drawn. -/
theorem syscallContinues : Obligations.SyscallContinues := by
  intro s v mem rest hs
  have h := syscall_continues (State.hostAnswer_of_script hs)
  rw [State.hostAnswered_of_script hs] at h
  exact h

/-- Settles O52: the loop does not check `ic` after an exit, and an error is the step's own. -/
theorem syscallExitAndErrorStop : Obligations.SyscallExitAndErrorStop := by
  intro s bytes rest hr hbytes
  have hd : decode s.fetchBytes = .ok (.syscall, bytes) := by rw [hbytes, decode_syscall]
  refine ⟨fun code hs => ?_, fun info hs => ?_⟩
  · have hexec := exec_syscall_exit (State.hostAnswer_of_script hs)
    refine ⟨s.hostAnswered.exited code, ?_, rfl, by simp, by simp, step_of_not_running nofun⟩
    rw [step_of_decode_ok hr hd, hexec, afterExec, State.exited_status]
  · exact step_of_exec_fault hr hd (exec_syscall_error (State.hostAnswer_of_script hs))

/-- Settles O53: without a script the answer is the open HOST's, and one value is drawn. -/
theorem unscriptedSyscallAsksHost : Obligations.UnscriptedSyscallAsksHost := by
  intro s hs
  rw [← State.hostAnswer_of_nil hs]
  cases ha : s.hostAnswer with
  | cont v mem =>
    have h := syscall_continues ha
    rw [State.hostAnswered_of_nil hs] at h
    simpa only [hs] using h
  | exit code =>
    have hexec := exec_syscall_exit ha
    rw [State.hostAnswered_of_nil hs] at hexec
    exact ⟨_, hexec, rfl, rfl, rfl, rfl, hs, rfl⟩
  | error info => exact exec_syscall_error ha

end Sys2Proof
end
